-- ==== Sys2Proof/Word.lean ====
section
/-! DEFINITION. The plain types the whole model is written in: a byte, a run of stream bits, and the entries of the
tables that are built at run time (R30, R31, R32). -/

namespace Sys2Proof

/-- One byte of `IN`, `OUT` or `WIN` (R66: every access moves one byte). -/
abbrev Byte := BitVec 8

/-- Stream bits in stream order, the first bit met at the head (R12). -/
abbrev Bits := List Bool

/-- One entry of the CodeTable `CT` (R30): `CT_LEN` is 5 bits, `CT_CODE` 16 bits. -/
structure CodeEntry where
  bits : BitVec 5
  code : BitVec 16
  deriving DecidableEq, Repr, Inhabited

/-- The five ASCII fast-lookup tables (R31). A slot `none` is the spec's `NONE`: never written. -/
structure AsciiTables where
  t2c34 : List (Option Byte)
  t2d34 : List (Option Byte)
  t2e34 : List (Option Byte)
  t2eb4 : List (Option Byte)
  chBits : List (BitVec 4)
  deriving DecidableEq, Repr, Inhabited

/-- The tables built in RAM (R60: built tables, R30 to R32). `none` is the spec's "no value": not built (R39, U11). -/
structure BuiltTables where
  ct : Option (List CodeEntry)
  ascii : Option AsciiTables
  lenLut : Option (List (BitVec 4))
  distLut : Option (List (BitVec 6))
  deriving DecidableEq, Repr, Inhabited

end Sys2Proof
end

