-- ==== Sys2Proof/Syntax.lean ====
section
/-! DEFINITION. The items of a compressed stream (30_encoding.md) as ONE inductive, a constructor for each row of
spec/opcode_table.json, and the small types their operands are made of. -/

namespace Sys2Proof

/-- Compression type (R9, R29, R91). -/
inductive CType where
  | binary
  | ascii
  deriving DecidableEq, Repr, Inhabited

/-- Dictionary-size class (R9, R29, R92). -/
inductive DSize where
  | small
  | medium
  | large
  deriving DecidableEq, Repr, Inhabited

/-- How many low distance bits a DIST item carries: 2, or `DBITS` = 4, 5, 6 (R98). -/
inductive DistWidth where
  | two
  | four
  | five
  | six
  deriving DecidableEq, Repr, Inhabited

/-- The `dlow` field of a DIST item, with its width (R98). -/
inductive DistLow where
  | w2 (v : BitVec 2)
  | w4 (v : BitVec 4)
  | w5 (v : BitVec 5)
  | w6 (v : BitVec 6)
  deriving DecidableEq, Repr, Inhabited

/-- Where an item stands in the stream. Which rows of the opcode table can be read depends on it (R90, R103, R106):
stream byte 0, stream byte 1, the first bit of a symbol in a stream of the given compression type, or the first bit after
the LEN part of a match, with the number of low distance bits that is due there. -/
inductive Place where
  | hdr0
  | hdr1
  | symbol (ct : CType)
  | distance (w : DistWidth)
  deriving DecidableEq, Repr, Inhabited

/-- The items, one constructor per row of spec/opcode_table.json (R106). The LIT.A rows stand last: Lean's runtime gives
constructors that carry data the first 244 numbers only. -/
inductive Instr where
  | hdr0Binary
  | hdr0Ascii
  | hdr1Small
  | hdr1Medium
  | hdr1Large
  | litB (byte : Byte)
  | len0
  | len1
  | len2
  | len3
  | len4
  | len5
  | len6
  | len7
  | len8 (extra : BitVec 1)
  | len9 (extra : BitVec 2)
  | len10 (extra : BitVec 3)
  | len11 (extra : BitVec 4)
  | len12 (extra : BitVec 5)
  | len13 (extra : BitVec 6)
  | len14 (extra : BitVec 7)
  | len15 (extra : BitVec 8)
  | eos
  | dist0 (low : DistLow)
  | dist1 (low : DistLow)
  | dist2 (low : DistLow)
  | dist3 (low : DistLow)
  | dist4 (low : DistLow)
  | dist5 (low : DistLow)
  | dist6 (low : DistLow)
  | dist7 (low : DistLow)
  | dist8 (low : DistLow)
  | dist9 (low : DistLow)
  | dist10 (low : DistLow)
  | dist11 (low : DistLow)
  | dist12 (low : DistLow)
  | dist13 (low : DistLow)
  | dist14 (low : DistLow)
  | dist15 (low : DistLow)
  | dist16 (low : DistLow)
  | dist17 (low : DistLow)
  | dist18 (low : DistLow)
  | dist19 (low : DistLow)
  | dist20 (low : DistLow)
  | dist21 (low : DistLow)
  | dist22 (low : DistLow)
  | dist23 (low : DistLow)
  | dist24 (low : DistLow)
  | dist25 (low : DistLow)
  | dist26 (low : DistLow)
  | dist27 (low : DistLow)
  | dist28 (low : DistLow)
  | dist29 (low : DistLow)
  | dist30 (low : DistLow)
  | dist31 (low : DistLow)
  | dist32 (low : DistLow)
  | dist33 (low : DistLow)
  | dist34 (low : DistLow)
  | dist35 (low : DistLow)
  | dist36 (low : DistLow)
  | dist37 (low : DistLow)
  | dist38 (low : DistLow)
  | dist39 (low : DistLow)
  | dist40 (low : DistLow)
  | dist41 (low : DistLow)
  | dist42 (low : DistLow)
  | dist43 (low : DistLow)
  | dist44 (low : DistLow)
  | dist45 (low : DistLow)
  | dist46 (low : DistLow)
  | dist47 (low : DistLow)
  | dist48 (low : DistLow)
  | dist49 (low : DistLow)
  | dist50 (low : DistLow)
  | dist51 (low : DistLow)
  | dist52 (low : DistLow)
  | dist53 (low : DistLow)
  | dist54 (low : DistLow)
  | dist55 (low : DistLow)
  | dist56 (low : DistLow)
  | dist57 (low : DistLow)
  | dist58 (low : DistLow)
  | dist59 (low : DistLow)
  | dist60 (low : DistLow)
  | dist61 (low : DistLow)
  | dist62 (low : DistLow)
  | dist63 (low : DistLow)
  | litA00 | litA01 | litA02 | litA03 | litA04 | litA05 | litA06 | litA07
  | litA08 | litA09 | litA0A | litA0B | litA0C | litA0D | litA0E | litA0F
  | litA10 | litA11 | litA12 | litA13 | litA14 | litA15 | litA16 | litA17
  | litA18 | litA19 | litA1A | litA1B | litA1C | litA1D | litA1E | litA1F
  | litA20 | litA21 | litA22 | litA23 | litA24 | litA25 | litA26 | litA27
  | litA28 | litA29 | litA2A | litA2B | litA2C | litA2D | litA2E | litA2F
  | litA30 | litA31 | litA32 | litA33 | litA34 | litA35 | litA36 | litA37
  | litA38 | litA39 | litA3A | litA3B | litA3C | litA3D | litA3E | litA3F
  | litA40 | litA41 | litA42 | litA43 | litA44 | litA45 | litA46 | litA47
  | litA48 | litA49 | litA4A | litA4B | litA4C | litA4D | litA4E | litA4F
  | litA50 | litA51 | litA52 | litA53 | litA54 | litA55 | litA56 | litA57
  | litA58 | litA59 | litA5A | litA5B | litA5C | litA5D | litA5E | litA5F
  | litA60 | litA61 | litA62 | litA63 | litA64 | litA65 | litA66 | litA67
  | litA68 | litA69 | litA6A | litA6B | litA6C | litA6D | litA6E | litA6F
  | litA70 | litA71 | litA72 | litA73 | litA74 | litA75 | litA76 | litA77
  | litA78 | litA79 | litA7A | litA7B | litA7C | litA7D | litA7E | litA7F
  | litA80 | litA81 | litA82 | litA83 | litA84 | litA85 | litA86 | litA87
  | litA88 | litA89 | litA8A | litA8B | litA8C | litA8D | litA8E | litA8F
  | litA90 | litA91 | litA92 | litA93 | litA94 | litA95 | litA96 | litA97
  | litA98 | litA99 | litA9A | litA9B | litA9C | litA9D | litA9E | litA9F
  | litAA0 | litAA1 | litAA2 | litAA3 | litAA4 | litAA5 | litAA6 | litAA7
  | litAA8 | litAA9 | litAAA | litAAB | litAAC | litAAD | litAAE | litAAF
  | litAB0 | litAB1 | litAB2 | litAB3 | litAB4 | litAB5 | litAB6 | litAB7
  | litAB8 | litAB9 | litABA | litABB | litABC | litABD | litABE | litABF
  | litAC0 | litAC1 | litAC2 | litAC3 | litAC4 | litAC5 | litAC6 | litAC7
  | litAC8 | litAC9 | litACA | litACB | litACC | litACD | litACE | litACF
  | litAD0 | litAD1 | litAD2 | litAD3 | litAD4 | litAD5 | litAD6 | litAD7
  | litAD8 | litAD9 | litADA | litADB | litADC | litADD | litADE | litADF
  | litAE0 | litAE1 | litAE2 | litAE3 | litAE4 | litAE5 | litAE6 | litAE7
  | litAE8 | litAE9 | litAEA | litAEB | litAEC | litAED | litAEE | litAEF
  | litAF0 | litAF1 | litAF2 | litAF3 | litAF4 | litAF5 | litAF6 | litAF7
  | litAF8 | litAF9 | litAFA | litAFB | litAFC | litAFD | litAFE | litAFF
  deriving DecidableEq, Repr, Inhabited

/-- The seven shapes of item (formats `HDR0` to `DIST` of 30_encoding.md) with the row number as an operand: what is said
once for all rows of a shape is said on this view. -/
inductive Item where
  | hdr0 (ct : CType)
  | hdr1 (ds : DSize)
  | litB (byte : Byte)
  | litA (byte : Byte)
  | len (bucket : Nat) (extra : Nat)
  | eos
  | dist (index : Nat) (low : DistLow)
  deriving DecidableEq, Repr, Inhabited

/-- The shape of an instruction. -/
def Instr.item : Instr → Item
  | .hdr0Binary => .hdr0 .binary
  | .hdr0Ascii => .hdr0 .ascii
  | .hdr1Small => .hdr1 .small
  | .hdr1Medium => .hdr1 .medium
  | .hdr1Large => .hdr1 .large
  | .litB byte => .litB byte
  | .len0 => .len 0 0
  | .len1 => .len 1 0
  | .len2 => .len 2 0
  | .len3 => .len 3 0
  | .len4 => .len 4 0
  | .len5 => .len 5 0
  | .len6 => .len 6 0
  | .len7 => .len 7 0
  | .len8 e => .len 8 e.toNat
  | .len9 e => .len 9 e.toNat
  | .len10 e => .len 10 e.toNat
  | .len11 e => .len 11 e.toNat
  | .len12 e => .len 12 e.toNat
  | .len13 e => .len 13 e.toNat
  | .len14 e => .len 14 e.toNat
  | .len15 e => .len 15 e.toNat
  | .eos => .eos
  | .dist0 low => .dist 0 low
  | .dist1 low => .dist 1 low
  | .dist2 low => .dist 2 low
  | .dist3 low => .dist 3 low
  | .dist4 low => .dist 4 low
  | .dist5 low => .dist 5 low
  | .dist6 low => .dist 6 low
  | .dist7 low => .dist 7 low
  | .dist8 low => .dist 8 low
  | .dist9 low => .dist 9 low
  | .dist10 low => .dist 10 low
  | .dist11 low => .dist 11 low
  | .dist12 low => .dist 12 low
  | .dist13 low => .dist 13 low
  | .dist14 low => .dist 14 low
  | .dist15 low => .dist 15 low
  | .dist16 low => .dist 16 low
  | .dist17 low => .dist 17 low
  | .dist18 low => .dist 18 low
  | .dist19 low => .dist 19 low
  | .dist20 low => .dist 20 low
  | .dist21 low => .dist 21 low
  | .dist22 low => .dist 22 low
  | .dist23 low => .dist 23 low
  | .dist24 low => .dist 24 low
  | .dist25 low => .dist 25 low
  | .dist26 low => .dist 26 low
  | .dist27 low => .dist 27 low
  | .dist28 low => .dist 28 low
  | .dist29 low => .dist 29 low
  | .dist30 low => .dist 30 low
  | .dist31 low => .dist 31 low
  | .dist32 low => .dist 32 low
  | .dist33 low => .dist 33 low
  | .dist34 low => .dist 34 low
  | .dist35 low => .dist 35 low
  | .dist36 low => .dist 36 low
  | .dist37 low => .dist 37 low
  | .dist38 low => .dist 38 low
  | .dist39 low => .dist 39 low
  | .dist40 low => .dist 40 low
  | .dist41 low => .dist 41 low
  | .dist42 low => .dist 42 low
  | .dist43 low => .dist 43 low
  | .dist44 low => .dist 44 low
  | .dist45 low => .dist 45 low
  | .dist46 low => .dist 46 low
  | .dist47 low => .dist 47 low
  | .dist48 low => .dist 48 low
  | .dist49 low => .dist 49 low
  | .dist50 low => .dist 50 low
  | .dist51 low => .dist 51 low
  | .dist52 low => .dist 52 low
  | .dist53 low => .dist 53 low
  | .dist54 low => .dist 54 low
  | .dist55 low => .dist 55 low
  | .dist56 low => .dist 56 low
  | .dist57 low => .dist 57 low
  | .dist58 low => .dist 58 low
  | .dist59 low => .dist 59 low
  | .dist60 low => .dist 60 low
  | .dist61 low => .dist 61 low
  | .dist62 low => .dist 62 low
  | .dist63 low => .dist 63 low
  | .litA00 => .litA 0x00 | .litA01 => .litA 0x01 | .litA02 => .litA 0x02 | .litA03 => .litA 0x03
  | .litA04 => .litA 0x04 | .litA05 => .litA 0x05 | .litA06 => .litA 0x06 | .litA07 => .litA 0x07
  | .litA08 => .litA 0x08 | .litA09 => .litA 0x09 | .litA0A => .litA 0x0A | .litA0B => .litA 0x0B
  | .litA0C => .litA 0x0C | .litA0D => .litA 0x0D | .litA0E => .litA 0x0E | .litA0F => .litA 0x0F
  | .litA10 => .litA 0x10 | .litA11 => .litA 0x11 | .litA12 => .litA 0x12 | .litA13 => .litA 0x13
  | .litA14 => .litA 0x14 | .litA15 => .litA 0x15 | .litA16 => .litA 0x16 | .litA17 => .litA 0x17
  | .litA18 => .litA 0x18 | .litA19 => .litA 0x19 | .litA1A => .litA 0x1A | .litA1B => .litA 0x1B
  | .litA1C => .litA 0x1C | .litA1D => .litA 0x1D | .litA1E => .litA 0x1E | .litA1F => .litA 0x1F
  | .litA20 => .litA 0x20 | .litA21 => .litA 0x21 | .litA22 => .litA 0x22 | .litA23 => .litA 0x23
  | .litA24 => .litA 0x24 | .litA25 => .litA 0x25 | .litA26 => .litA 0x26 | .litA27 => .litA 0x27
  | .litA28 => .litA 0x28 | .litA29 => .litA 0x29 | .litA2A => .litA 0x2A | .litA2B => .litA 0x2B
  | .litA2C => .litA 0x2C | .litA2D => .litA 0x2D | .litA2E => .litA 0x2E | .litA2F => .litA 0x2F
  | .litA30 => .litA 0x30 | .litA31 => .litA 0x31 | .litA32 => .litA 0x32 | .litA33 => .litA 0x33
  | .litA34 => .litA 0x34 | .litA35 => .litA 0x35 | .litA36 => .litA 0x36 | .litA37 => .litA 0x37
  | .litA38 => .litA 0x38 | .litA39 => .litA 0x39 | .litA3A => .litA 0x3A | .litA3B => .litA 0x3B
  | .litA3C => .litA 0x3C | .litA3D => .litA 0x3D | .litA3E => .litA 0x3E | .litA3F => .litA 0x3F
  | .litA40 => .litA 0x40 | .litA41 => .litA 0x41 | .litA42 => .litA 0x42 | .litA43 => .litA 0x43
  | .litA44 => .litA 0x44 | .litA45 => .litA 0x45 | .litA46 => .litA 0x46 | .litA47 => .litA 0x47
  | .litA48 => .litA 0x48 | .litA49 => .litA 0x49 | .litA4A => .litA 0x4A | .litA4B => .litA 0x4B
  | .litA4C => .litA 0x4C | .litA4D => .litA 0x4D | .litA4E => .litA 0x4E | .litA4F => .litA 0x4F
  | .litA50 => .litA 0x50 | .litA51 => .litA 0x51 | .litA52 => .litA 0x52 | .litA53 => .litA 0x53
  | .litA54 => .litA 0x54 | .litA55 => .litA 0x55 | .litA56 => .litA 0x56 | .litA57 => .litA 0x57
  | .litA58 => .litA 0x58 | .litA59 => .litA 0x59 | .litA5A => .litA 0x5A | .litA5B => .litA 0x5B
  | .litA5C => .litA 0x5C | .litA5D => .litA 0x5D | .litA5E => .litA 0x5E | .litA5F => .litA 0x5F
  | .litA60 => .litA 0x60 | .litA61 => .litA 0x61 | .litA62 => .litA 0x62 | .litA63 => .litA 0x63
  | .litA64 => .litA 0x64 | .litA65 => .litA 0x65 | .litA66 => .litA 0x66 | .litA67 => .litA 0x67
  | .litA68 => .litA 0x68 | .litA69 => .litA 0x69 | .litA6A => .litA 0x6A | .litA6B => .litA 0x6B
  | .litA6C => .litA 0x6C | .litA6D => .litA 0x6D | .litA6E => .litA 0x6E | .litA6F => .litA 0x6F
  | .litA70 => .litA 0x70 | .litA71 => .litA 0x71 | .litA72 => .litA 0x72 | .litA73 => .litA 0x73
  | .litA74 => .litA 0x74 | .litA75 => .litA 0x75 | .litA76 => .litA 0x76 | .litA77 => .litA 0x77
  | .litA78 => .litA 0x78 | .litA79 => .litA 0x79 | .litA7A => .litA 0x7A | .litA7B => .litA 0x7B
  | .litA7C => .litA 0x7C | .litA7D => .litA 0x7D | .litA7E => .litA 0x7E | .litA7F => .litA 0x7F
  | .litA80 => .litA 0x80 | .litA81 => .litA 0x81 | .litA82 => .litA 0x82 | .litA83 => .litA 0x83
  | .litA84 => .litA 0x84 | .litA85 => .litA 0x85 | .litA86 => .litA 0x86 | .litA87 => .litA 0x87
  | .litA88 => .litA 0x88 | .litA89 => .litA 0x89 | .litA8A => .litA 0x8A | .litA8B => .litA 0x8B
  | .litA8C => .litA 0x8C | .litA8D => .litA 0x8D | .litA8E => .litA 0x8E | .litA8F => .litA 0x8F
  | .litA90 => .litA 0x90 | .litA91 => .litA 0x91 | .litA92 => .litA 0x92 | .litA93 => .litA 0x93
  | .litA94 => .litA 0x94 | .litA95 => .litA 0x95 | .litA96 => .litA 0x96 | .litA97 => .litA 0x97
  | .litA98 => .litA 0x98 | .litA99 => .litA 0x99 | .litA9A => .litA 0x9A | .litA9B => .litA 0x9B
  | .litA9C => .litA 0x9C | .litA9D => .litA 0x9D | .litA9E => .litA 0x9E | .litA9F => .litA 0x9F
  | .litAA0 => .litA 0xA0 | .litAA1 => .litA 0xA1 | .litAA2 => .litA 0xA2 | .litAA3 => .litA 0xA3
  | .litAA4 => .litA 0xA4 | .litAA5 => .litA 0xA5 | .litAA6 => .litA 0xA6 | .litAA7 => .litA 0xA7
  | .litAA8 => .litA 0xA8 | .litAA9 => .litA 0xA9 | .litAAA => .litA 0xAA | .litAAB => .litA 0xAB
  | .litAAC => .litA 0xAC | .litAAD => .litA 0xAD | .litAAE => .litA 0xAE | .litAAF => .litA 0xAF
  | .litAB0 => .litA 0xB0 | .litAB1 => .litA 0xB1 | .litAB2 => .litA 0xB2 | .litAB3 => .litA 0xB3
  | .litAB4 => .litA 0xB4 | .litAB5 => .litA 0xB5 | .litAB6 => .litA 0xB6 | .litAB7 => .litA 0xB7
  | .litAB8 => .litA 0xB8 | .litAB9 => .litA 0xB9 | .litABA => .litA 0xBA | .litABB => .litA 0xBB
  | .litABC => .litA 0xBC | .litABD => .litA 0xBD | .litABE => .litA 0xBE | .litABF => .litA 0xBF
  | .litAC0 => .litA 0xC0 | .litAC1 => .litA 0xC1 | .litAC2 => .litA 0xC2 | .litAC3 => .litA 0xC3
  | .litAC4 => .litA 0xC4 | .litAC5 => .litA 0xC5 | .litAC6 => .litA 0xC6 | .litAC7 => .litA 0xC7
  | .litAC8 => .litA 0xC8 | .litAC9 => .litA 0xC9 | .litACA => .litA 0xCA | .litACB => .litA 0xCB
  | .litACC => .litA 0xCC | .litACD => .litA 0xCD | .litACE => .litA 0xCE | .litACF => .litA 0xCF
  | .litAD0 => .litA 0xD0 | .litAD1 => .litA 0xD1 | .litAD2 => .litA 0xD2 | .litAD3 => .litA 0xD3
  | .litAD4 => .litA 0xD4 | .litAD5 => .litA 0xD5 | .litAD6 => .litA 0xD6 | .litAD7 => .litA 0xD7
  | .litAD8 => .litA 0xD8 | .litAD9 => .litA 0xD9 | .litADA => .litA 0xDA | .litADB => .litA 0xDB
  | .litADC => .litA 0xDC | .litADD => .litA 0xDD | .litADE => .litA 0xDE | .litADF => .litA 0xDF
  | .litAE0 => .litA 0xE0 | .litAE1 => .litA 0xE1 | .litAE2 => .litA 0xE2 | .litAE3 => .litA 0xE3
  | .litAE4 => .litA 0xE4 | .litAE5 => .litA 0xE5 | .litAE6 => .litA 0xE6 | .litAE7 => .litA 0xE7
  | .litAE8 => .litA 0xE8 | .litAE9 => .litA 0xE9 | .litAEA => .litA 0xEA | .litAEB => .litA 0xEB
  | .litAEC => .litA 0xEC | .litAED => .litA 0xED | .litAEE => .litA 0xEE | .litAEF => .litA 0xEF
  | .litAF0 => .litA 0xF0 | .litAF1 => .litA 0xF1 | .litAF2 => .litA 0xF2 | .litAF3 => .litA 0xF3
  | .litAF4 => .litA 0xF4 | .litAF5 => .litA 0xF5 | .litAF6 => .litA 0xF6 | .litAF7 => .litA 0xF7
  | .litAF8 => .litA 0xF8 | .litAF9 => .litA 0xF9 | .litAFA => .litA 0xFA | .litAFB => .litA 0xFB
  | .litAFC => .litA 0xFC | .litAFD => .litA 0xFD | .litAFE => .litA 0xFE | .litAFF => .litA 0xFF

end Sys2Proof
end

