-- ==== Sys2Proof/Config.lean ====
section
/-! DEFINITION. What is fixed for the machine (R8), and the free values: state the spec leaves unspecified after an error
(R313, U2). A free value is a constant with no body, applied to the counter `freeCount` of State (log 4). -/

namespace Sys2Proof

/-- `MIN_LEN`, the shortest match (R8). -/
def Config.minLen : Nat := 2

/-- `MAX_LEN`, the longest match, and the lookahead a compressor needs to decide (R8, R263). -/
def Config.maxLen : Nat := 518

/-- `N_SYM`, the number of CodeTable symbols (R8). -/
def Config.nSym : Nat := 0x306

/-- `EOS_SYM`, the end-of-stream symbol (R8). -/
def Config.eosSym : Nat := 0x305

/-- `HDR_MIN_AVAIL`, the bytes that must be buffered before the header is parsed (R8). -/
def Config.hdrMinAvail : Nat := 4

/-- How many stream bits a fetch looks at. DEDUCED (log 13): the largest item has 30 bits (R107). Safe. -/
def Config.fetchSpan : Nat := 32

/-! Free values after an error (R313: "All other state ... becomes unspecified"), one per register, log 4. -/

opaque Config.freeIpos : Nat → Nat
opaque Config.freeWindow : Nat → List Byte
opaque Config.freeInput : Nat → List Byte
opaque Config.freeInBase : Nat → Nat
opaque Config.freeOutCount : Nat → Nat
opaque Config.freePartial : Nat → Byte
opaque Config.freeFilled : Nat → BitVec 3
opaque Config.freeTables : Nat → BuiltTables
opaque Config.freeEosSeen : Nat → Bool
opaque Config.freeStreamEnded : Nat → Bool
opaque Config.freeCType : Nat → Option CType
opaque Config.freeDSize : Nat → Option DSize

end Sys2Proof
end

