-- ==== Sys2Proof/Machine/Tables.lean ====
section
/-! DEFINITION. The static code tables (ROM, R140 to R147), the CodeTable (R149 to R153), the length and distance lookup
tables (R156, R157), and the ASCII fast-lookup tables: the generator (R170 to R174) and the contents the spec prints
(R176 to R180). The numbers are those of spec/41_static_tables.md, which marks them general knowledge (log 20). -/

namespace Sys2Proof.Machine

/-- Entry `i` of a ROM table; 0 past its end, which no rule reads. -/
def romAt (table : List Nat) (i : Nat) : Nat := table.getD i 0

/-! ## The static tables -/

/-- `ExLenBits` (R141). -/
def exLenBits : List Nat := [0, 0, 0, 0, 0, 0, 0, 0, 1, 2, 3, 4, 5, 6, 7, 8]

/-- `LenBits` (R142). -/
def lenBits : List Nat := [3, 2, 3, 3, 4, 4, 4, 5, 5, 5, 5, 6, 6, 6, 7, 7]

/-- `LenCode` (R144). -/
def lenCode : List Nat :=
  [0x05, 0x03, 0x01, 0x06, 0x0A, 0x02, 0x0C, 0x14, 0x04, 0x18, 0x08, 0x30, 0x10, 0x20, 0x40, 0x00]

/-- `LenBase[i]` is the sum of `1 << ExLenBits[j]` over `j < i` (R143). -/
def lenBase (i : Nat) : Nat := ((exLenBits.take i).map (fun n => 1 <<< n)).sum

/-- `DistBits` (R145). -/
def distBits : List Nat := [
   [2, 4, 4, 5, 5, 5, 5, 6, 6, 6, 6, 6, 6, 6, 6, 6],
   [6, 6, 6, 6, 6, 6, 7, 7, 7, 7, 7, 7, 7, 7, 7, 7],
   [7, 7, 7, 7, 7, 7, 7, 7, 7, 7, 7, 7, 7, 7, 7, 7],
   [8, 8, 8, 8, 8, 8, 8, 8, 8, 8, 8, 8, 8, 8, 8, 8]].flatten

/-- `DistCode` (R145). -/
def distCode : List Nat := [
   [0x03, 0x0D, 0x05, 0x19, 0x09, 0x11, 0x01, 0x3E, 0x1E, 0x2E, 0x0E, 0x36, 0x16, 0x26, 0x06, 0x3A],
   [0x1A, 0x2A, 0x0A, 0x32, 0x12, 0x22, 0x42, 0x02, 0x7C, 0x3C, 0x5C, 0x1C, 0x6C, 0x2C, 0x4C, 0x0C],
   [0x74, 0x34, 0x54, 0x14, 0x64, 0x24, 0x44, 0x04, 0x78, 0x38, 0x58, 0x18, 0x68, 0x28, 0x48, 0x08],
   [0xF0, 0x70, 0xB0, 0x30, 0xD0, 0x50, 0x90, 0x10, 0xE0, 0x60, 0xA0, 0x20, 0xC0, 0x40, 0x80, 0x00]].flatten

/-- `ChBitsAsc` (R146). -/
def chBitsAsc : List Nat := [
   [11, 12, 12, 12, 12, 12, 12, 12, 12, 8, 7, 12, 12, 7, 12, 12],
   [12, 12, 12, 12, 12, 12, 12, 12, 12, 12, 13, 12, 12, 12, 12, 12],
   [4, 10, 8, 12, 10, 12, 10, 8, 7, 7, 8, 9, 7, 6, 7, 8],
   [7, 6, 7, 7, 7, 7, 8, 7, 7, 8, 8, 12, 11, 7, 9, 11],
   [12, 6, 7, 6, 6, 5, 7, 8, 8, 6, 11, 9, 6, 7, 6, 6],
   [7, 11, 6, 6, 6, 7, 9, 8, 9, 9, 11, 8, 11, 9, 12, 8],
   [12, 5, 6, 6, 6, 5, 6, 6, 6, 5, 11, 7, 5, 6, 5, 5],
   [6, 10, 5, 5, 5, 5, 8, 7, 8, 8, 10, 11, 11, 12, 12, 12],
   [13, 13, 13, 13, 13, 13, 13, 13, 13, 13, 13, 13, 13, 13, 13, 13],
   [13, 13, 13, 13, 13, 13, 13, 13, 13, 13, 13, 13, 13, 13, 13, 13],
   [13, 13, 13, 13, 13, 13, 13, 13, 13, 13, 13, 13, 13, 13, 13, 13],
   [12, 12, 12, 12, 12, 12, 12, 12, 12, 12, 12, 12, 12, 12, 12, 12],
   [12, 12, 12, 12, 12, 12, 12, 12, 12, 12, 12, 12, 12, 12, 12, 12],
   [12, 12, 12, 12, 12, 12, 12, 12, 12, 12, 12, 12, 12, 12, 12, 12],
   [13, 12, 13, 13, 13, 12, 13, 13, 13, 12, 13, 13, 13, 13, 12, 13],
   [13, 13, 12, 12, 12, 13, 13, 13, 13, 13, 13, 13, 13, 13, 13, 13]].flatten

/-- `ChCodeAsc` (R147). -/
def chCodeAsc : List Nat := [
   [0x0490, 0x0FE0, 0x07E0, 0x0BE0, 0x03E0, 0x0DE0, 0x05E0, 0x09E0, 0x01E0, 0x00B8, 0x0062, 0x0EE0, 0x06E0, 0x0022, 0x0AE0, 0x02E0],
   [0x0CE0, 0x04E0, 0x08E0, 0x00E0, 0x0F60, 0x0760, 0x0B60, 0x0360, 0x0D60, 0x0560, 0x1240, 0x0960, 0x0160, 0x0E60, 0x0660, 0x0A60],
   [0x000F, 0x0250, 0x0038, 0x0260, 0x0050, 0x0C60, 0x0390, 0x00D8, 0x0042, 0x0002, 0x0058, 0x01B0, 0x007C, 0x0029, 0x003C, 0x0098],
   [0x005C, 0x0009, 0x001C, 0x006C, 0x002C, 0x004C, 0x0018, 0x000C, 0x0074, 0x00E8, 0x0068, 0x0460, 0x0090, 0x0034, 0x00B0, 0x0710],
   [0x0860, 0x0031, 0x0054, 0x0011, 0x0021, 0x0017, 0x0014, 0x00A8, 0x0028, 0x0001, 0x0310, 0x0130, 0x003E, 0x0064, 0x001E, 0x002E],
   [0x0024, 0x0510, 0x000E, 0x0036, 0x0016, 0x0044, 0x0030, 0x00C8, 0x01D0, 0x00D0, 0x0110, 0x0048, 0x0610, 0x0150, 0x0060, 0x0088],
   [0x0FA0, 0x0007, 0x0026, 0x0006, 0x003A, 0x001B, 0x001A, 0x002A, 0x000A, 0x000B, 0x0210, 0x0004, 0x0013, 0x0032, 0x0003, 0x001D],
   [0x0012, 0x0190, 0x000D, 0x0015, 0x0005, 0x0019, 0x0008, 0x0078, 0x00F0, 0x0070, 0x0290, 0x0410, 0x0010, 0x07A0, 0x0BA0, 0x03A0],
   [0x0240, 0x1C40, 0x0C40, 0x1440, 0x0440, 0x1840, 0x0840, 0x1040, 0x0040, 0x1F80, 0x0F80, 0x1780, 0x0780, 0x1B80, 0x0B80, 0x1380],
   [0x0380, 0x1D80, 0x0D80, 0x1580, 0x0580, 0x1980, 0x0980, 0x1180, 0x0180, 0x1E80, 0x0E80, 0x1680, 0x0680, 0x1A80, 0x0A80, 0x1280],
   [0x0280, 0x1C80, 0x0C80, 0x1480, 0x0480, 0x1880, 0x0880, 0x1080, 0x0080, 0x1F00, 0x0F00, 0x1700, 0x0700, 0x1B00, 0x0B00, 0x1300],
   [0x0DA0, 0x05A0, 0x09A0, 0x01A0, 0x0EA0, 0x06A0, 0x0AA0, 0x02A0, 0x0CA0, 0x04A0, 0x08A0, 0x00A0, 0x0F20, 0x0720, 0x0B20, 0x0320],
   [0x0D20, 0x0520, 0x0920, 0x0120, 0x0E20, 0x0620, 0x0A20, 0x0220, 0x0C20, 0x0420, 0x0820, 0x0020, 0x0FC0, 0x07C0, 0x0BC0, 0x03C0],
   [0x0DC0, 0x05C0, 0x09C0, 0x01C0, 0x0EC0, 0x06C0, 0x0AC0, 0x02C0, 0x0CC0, 0x04C0, 0x08C0, 0x00C0, 0x0F40, 0x0740, 0x0B40, 0x0340],
   [0x0300, 0x0D40, 0x1D00, 0x0D00, 0x1500, 0x0540, 0x0500, 0x1900, 0x0900, 0x0940, 0x1100, 0x0100, 0x1E00, 0x0E00, 0x0140, 0x1600],
   [0x0600, 0x1A00, 0x0E40, 0x0640, 0x0A40, 0x0A00, 0x1200, 0x0200, 0x1C00, 0x0C00, 0x1400, 0x0400, 0x1800, 0x0800, 0x1000, 0x0000]].flatten

/-! ## The CodeTable (R149 to R153) -/

def codeEntry (bits code : Nat) : CodeEntry := ⟨BitVec.ofNat 5 bits, BitVec.ofNat 16 code⟩

/-- Entries 0 to 0xFF: discriminator 0 at bit 0, then the byte (R150) or its ASCII code (R151). -/
def literalEntry (ct : CType) (b : Nat) : CodeEntry :=
  match ct with
  | .binary => codeEntry 9 (b <<< 1)
  | .ascii => codeEntry (romAt chBitsAsc b + 1) (romAt chCodeAsc b <<< 1)

/-- The entry of length bucket `i` with extra value `e`: discriminator 1, length code, extra bits (R152). -/
def lengthEntry (i e : Nat) : CodeEntry :=
  codeEntry (1 + romAt lenBits i + romAt exLenBits i)
    ((e <<< (romAt lenBits i + 1)) ||| (romAt lenCode i <<< 1) ||| 1)

/-- Entries 0x100 to 0x305, bucket by bucket (R152); the last one is the end-of-stream code (R153). -/
def lengthEntries : List CodeEntry :=
  (List.range 16).flatMap fun i => (List.range (1 <<< romAt exLenBits i)).map (lengthEntry i)

/-- The CodeTable `CT` of a stream (R149). -/
def codeTable (ct : CType) : List CodeEntry := (List.range 256).map (literalEntry ct) ++ lengthEntries

/-! ## The prefix-allocation iterator (R170, R171) -/

/-- `createPATIterator(limit, step)(seed)`; `none` is the spec's `false` (R170). -/
def patIterator (limit step seed : Nat) : Option (Nat × Nat) :=
  if limit ≤ seed then none else some (seed, seed + (1 <<< step))

/-- The unfold of the iterator, at most `fuel` indices. -/
def patUnfold (limit step : Nat) : Nat → Nat → List Nat
  | 0, _ => []
  | fuel + 1, seed =>
    match patIterator limit step seed with
    | none => []
    | some (index, next) => index :: patUnfold limit step fuel next

/-- `patEnumerate(limit, step, seed)` (R171). Each step adds at least 1, so `limit` steps reach the end. -/
def patEnumerate (limit step seed : Nat) : List Nat := patUnfold limit step limit seed

/-! ## The length and distance lookup tables -/

/-- The slots of a 256-entry table filled by the prefix codes of one alphabet: slot `x` holds the index of the code that
the bits of `x` select (R156, R157). -/
def fillSlots (bits code : List Nat) : List Nat :=
  (List.range bits.length).foldl
    (fun table i => (patEnumerate 0x100 (romAt bits i) (romAt code i)).foldl (fun t x => t.set x i) table)
    (List.replicate 0x100 0)

/-- `LENLUT`, the contents R156 prints. -/
def lenLutRom : List Nat := [
   [15, 2, 5, 1, 8, 0, 3, 1, 10, 2, 4, 1, 6, 0, 3, 1],
   [12, 2, 5, 1, 7, 0, 3, 1, 9, 2, 4, 1, 6, 0, 3, 1],
   [13, 2, 5, 1, 8, 0, 3, 1, 10, 2, 4, 1, 6, 0, 3, 1],
   [11, 2, 5, 1, 7, 0, 3, 1, 9, 2, 4, 1, 6, 0, 3, 1],
   [14, 2, 5, 1, 8, 0, 3, 1, 10, 2, 4, 1, 6, 0, 3, 1],
   [12, 2, 5, 1, 7, 0, 3, 1, 9, 2, 4, 1, 6, 0, 3, 1],
   [13, 2, 5, 1, 8, 0, 3, 1, 10, 2, 4, 1, 6, 0, 3, 1],
   [11, 2, 5, 1, 7, 0, 3, 1, 9, 2, 4, 1, 6, 0, 3, 1],
   [15, 2, 5, 1, 8, 0, 3, 1, 10, 2, 4, 1, 6, 0, 3, 1],
   [12, 2, 5, 1, 7, 0, 3, 1, 9, 2, 4, 1, 6, 0, 3, 1],
   [13, 2, 5, 1, 8, 0, 3, 1, 10, 2, 4, 1, 6, 0, 3, 1],
   [11, 2, 5, 1, 7, 0, 3, 1, 9, 2, 4, 1, 6, 0, 3, 1],
   [14, 2, 5, 1, 8, 0, 3, 1, 10, 2, 4, 1, 6, 0, 3, 1],
   [12, 2, 5, 1, 7, 0, 3, 1, 9, 2, 4, 1, 6, 0, 3, 1],
   [13, 2, 5, 1, 8, 0, 3, 1, 10, 2, 4, 1, 6, 0, 3, 1],
   [11, 2, 5, 1, 7, 0, 3, 1, 9, 2, 4, 1, 6, 0, 3, 1]].flatten

/-- `DISTLUT`, the contents R157 prints. -/
def distLutRom : List Nat := [
   [0x3F, 0x06, 0x17, 0x00, 0x27, 0x02, 0x0E, 0x00, 0x2F, 0x04, 0x12, 0x00, 0x1F, 0x01, 0x0A, 0x00],
   [0x37, 0x05, 0x14, 0x00, 0x23, 0x02, 0x0C, 0x00, 0x2B, 0x03, 0x10, 0x00, 0x1B, 0x01, 0x08, 0x00],
   [0x3B, 0x06, 0x15, 0x00, 0x25, 0x02, 0x0D, 0x00, 0x2D, 0x04, 0x11, 0x00, 0x1D, 0x01, 0x09, 0x00],
   [0x33, 0x05, 0x13, 0x00, 0x21, 0x02, 0x0B, 0x00, 0x29, 0x03, 0x0F, 0x00, 0x19, 0x01, 0x07, 0x00],
   [0x3D, 0x06, 0x16, 0x00, 0x26, 0x02, 0x0E, 0x00, 0x2E, 0x04, 0x12, 0x00, 0x1E, 0x01, 0x0A, 0x00],
   [0x35, 0x05, 0x14, 0x00, 0x22, 0x02, 0x0C, 0x00, 0x2A, 0x03, 0x10, 0x00, 0x1A, 0x01, 0x08, 0x00],
   [0x39, 0x06, 0x15, 0x00, 0x24, 0x02, 0x0D, 0x00, 0x2C, 0x04, 0x11, 0x00, 0x1C, 0x01, 0x09, 0x00],
   [0x31, 0x05, 0x13, 0x00, 0x20, 0x02, 0x0B, 0x00, 0x28, 0x03, 0x0F, 0x00, 0x18, 0x01, 0x07, 0x00],
   [0x3E, 0x06, 0x17, 0x00, 0x27, 0x02, 0x0E, 0x00, 0x2F, 0x04, 0x12, 0x00, 0x1F, 0x01, 0x0A, 0x00],
   [0x36, 0x05, 0x14, 0x00, 0x23, 0x02, 0x0C, 0x00, 0x2B, 0x03, 0x10, 0x00, 0x1B, 0x01, 0x08, 0x00],
   [0x3A, 0x06, 0x15, 0x00, 0x25, 0x02, 0x0D, 0x00, 0x2D, 0x04, 0x11, 0x00, 0x1D, 0x01, 0x09, 0x00],
   [0x32, 0x05, 0x13, 0x00, 0x21, 0x02, 0x0B, 0x00, 0x29, 0x03, 0x0F, 0x00, 0x19, 0x01, 0x07, 0x00],
   [0x3C, 0x06, 0x16, 0x00, 0x26, 0x02, 0x0E, 0x00, 0x2E, 0x04, 0x12, 0x00, 0x1E, 0x01, 0x0A, 0x00],
   [0x34, 0x05, 0x14, 0x00, 0x22, 0x02, 0x0C, 0x00, 0x2A, 0x03, 0x10, 0x00, 0x1A, 0x01, 0x08, 0x00],
   [0x38, 0x06, 0x15, 0x00, 0x24, 0x02, 0x0D, 0x00, 0x2C, 0x04, 0x11, 0x00, 0x1C, 0x01, 0x09, 0x00],
   [0x30, 0x05, 0x13, 0x00, 0x20, 0x02, 0x0B, 0x00, 0x28, 0x03, 0x0F, 0x00, 0x18, 0x01, 0x07, 0x00]].flatten

/-- `LENLUT` as the engine holds it: 4-bit entries (R32). -/
def lenLut : List (BitVec 4) := lenLutRom.map (BitVec.ofNat 4)

/-- `DISTLUT` as the engine holds it: 6-bit entries (R32). -/
def distLut : List (BitVec 6) := distLutRom.map (BitVec.ofNat 6)

/-! ## Codes from code lengths (R148 item 3) -/

/-- The entries of an alphabet sorted by (code length, index), as pairs (length, index). A code has at most 16 bits
(R30). -/
def byLength (bits : List Nat) : List (Nat × Nat) :=
  (List.range 17).flatMap fun n =>
    ((List.range bits.length).filter fun i => romAt bits i == n).map fun i => (n, i)

/-- Complement every bit of an `n`-bit code and reverse the order of its bits. -/
def sentCode : Nat → Nat → Nat
  | 0, _ => 0
  | n + 1, code => (1 - code % 2) * 2 ^ n + sentCode n (code / 2)

/-- Give the sorted entries their codes, as pairs (index, code): each gets the code before plus 1, shifted left by the growth in
length; `next` is that code plus 1 and `len` its length. -/
def assignCodes : Nat → Nat → List (Nat × Nat) → List (Nat × Nat)
  | _, _, [] => []
  | next, len, (n, i) :: rest =>
    let code := next <<< (n - len)
    (i, sentCode n code) :: assignCodes (code + 1) n rest

/-- The canonical codes of an alphabet, from its code lengths alone (R148 item 3): the first entry gets the all-zero code. -/
def canonicalCodes (bits : List Nat) : List Nat :=
  (assignCodes 0 0 (byLength bits)).foldl (fun table entry => table.set entry.1 entry.2) (List.replicate bits.length 0)

/-! ## The ASCII table generator (R172 to R174) -/

/-- `populateAsciiTable(bits, symbol, base, limit)` (R172). No index when the code has more bits left than the table has
address bits (C14). A code with no bit left breaks the precondition; the list is then empty (U3, log 19). -/
def populateAsciiTable (bits symbol base limit : Nat) : List Nat :=
  if bits ≤ base then []
  else if Nat.log2 limit < bits - base then []
  else patEnumerate limit (bits - base) (romAt chCodeAsc symbol >>> base)

/-- The four classes of literal byte (R173). -/
inductive AsciiClass where
  | a
  | b
  | c
  | d
  deriving DecidableEq, Repr

/-- The class of a literal byte: by code length, then by the low 8 and the low 6 code bits (R173). -/
def asciiClass (v : Nat) : AsciiClass :=
  if romAt chBitsAsc v ≤ 8 then .a
  else if romAt chCodeAsc v % 0x100 = 0 then .d
  else if romAt chCodeAsc v % 0x40 = 0 then .c
  else .b

/-- How many code bits are consumed before the class's table is indexed (R173). -/
def asciiBase : AsciiClass → Nat
  | .a => 0
  | .b => 4
  | .c => 6
  | .d => 8

/-- Write `value` into each listed slot. -/
def fillWith (table : List (Option Byte)) (slots : List Nat) (value : Byte) : List (Option Byte) :=
  slots.foldl (fun t x => t.set x (some value)) table

/-- One round of `generateAsciiTables`, for the literal byte `v` (R174). 0xFF in `T2C34` is the sentinel. -/
def generateAsciiEntry (t : AsciiTables) (v : Nat) : AsciiTables :=
  let bits := romAt chBitsAsc v
  let byte := BitVec.ofNat 8 v
  let base := asciiBase (asciiClass v)
  let t := { t with chBits := t.chBits.set v (BitVec.ofNat 4 (bits - base)) }
  let sentinel := fillWith t.t2c34 [romAt chCodeAsc v % 0x100] 0xFF
  match asciiClass v with
  | .a => { t with t2c34 := fillWith t.t2c34 (populateAsciiTable bits v base 0x100) byte }
  | .d => { t with t2eb4 := fillWith t.t2eb4 (populateAsciiTable bits v base 0x100) byte }
  | .c => { t with t2c34 := sentinel, t2e34 := fillWith t.t2e34 (populateAsciiTable bits v base 0x80) byte }
  | .b => { t with t2c34 := sentinel, t2d34 := fillWith t.t2d34 (populateAsciiTable bits v base 0x100) byte }

/-- All slots `NONE` (R174). -/
def emptyAsciiTables : AsciiTables where
  t2c34 := List.replicate 0x100 none
  t2d34 := List.replicate 0x100 none
  t2e34 := List.replicate 0x80 none
  t2eb4 := List.replicate 0x100 none
  chBits := List.replicate 0x100 0

/-- `generateAsciiTables()` (R174), byte values in ascending order (D36). -/
def generateAsciiTables : AsciiTables := (List.range 256).foldl generateAsciiEntry emptyAsciiTables

/-! ## The ASCII tables' contents (R176 to R180) -/

/-- A printed slot: 0x100 stands for `--`, which is `NONE`. -/
def slotOf (x : Nat) : Option Byte := if x = 0x100 then none else some (BitVec.ofNat 8 x)

/-- `CHBITS` (R176). -/
def chBitsRom : List Nat := [
   [7, 8, 8, 8, 8, 8, 8, 8, 8, 8, 7, 8, 8, 7, 8, 8],
   [8, 8, 8, 8, 8, 8, 8, 8, 8, 8, 7, 8, 8, 8, 8, 8],
   [4, 6, 8, 8, 6, 8, 6, 8, 7, 7, 8, 5, 7, 6, 7, 8],
   [7, 6, 7, 7, 7, 7, 8, 7, 7, 8, 8, 8, 7, 7, 5, 7],
   [8, 6, 7, 6, 6, 5, 7, 8, 8, 6, 7, 5, 6, 7, 6, 6],
   [7, 7, 6, 6, 6, 7, 5, 8, 5, 5, 7, 8, 7, 5, 8, 8],
   [8, 5, 6, 6, 6, 5, 6, 6, 6, 5, 7, 7, 5, 6, 5, 5],
   [6, 6, 5, 5, 5, 5, 8, 7, 8, 8, 6, 7, 7, 8, 8, 8],
   [7, 7, 7, 7, 7, 7, 7, 7, 7, 7, 7, 7, 7, 7, 7, 7],
   [7, 7, 7, 7, 7, 7, 7, 7, 7, 7, 7, 7, 7, 7, 7, 7],
   [7, 7, 7, 7, 7, 7, 7, 7, 7, 5, 5, 5, 5, 5, 5, 5],
   [8, 8, 8, 8, 8, 8, 8, 8, 8, 8, 8, 8, 8, 8, 8, 8],
   [8, 8, 8, 8, 8, 8, 8, 8, 8, 8, 8, 8, 6, 6, 6, 6],
   [6, 6, 6, 6, 6, 6, 6, 6, 6, 6, 6, 6, 6, 6, 6, 6],
   [5, 6, 5, 5, 5, 6, 5, 5, 5, 6, 5, 5, 5, 5, 6, 5],
   [5, 5, 6, 6, 6, 5, 5, 5, 5, 5, 5, 5, 5, 5, 5, 5]].flatten

/-- `T2C34` (R177). -/
def t2c34Rom : List Nat := [
   [0x100, 0x49, 0x29, 0x6E, 0x6B, 0x74, 0x63, 0x61, 0x76, 0x31, 0x68, 0x69, 0x37, 0x72, 0x52, 0x20],
   [0xFF, 0x43, 0x70, 0x6C, 0x46, 0x73, 0x54, 0x45, 0x36, 0x75, 0x66, 0x65, 0x32, 0x6F, 0x4E, 0x20],
   [0xFF, 0x44, 0x0D, 0x6E, 0x50, 0x74, 0x62, 0x61, 0x48, 0x2D, 0x67, 0x69, 0x34, 0x72, 0x4F, 0x20],
   [0xFF, 0x41, 0x6D, 0x6C, 0x3D, 0x73, 0x53, 0x45, 0x22, 0x75, 0x64, 0x65, 0x2E, 0x6F, 0x4C, 0x20],
   [0xFF, 0x49, 0x28, 0x6E, 0x55, 0x74, 0x63, 0x61, 0x5B, 0x31, 0x68, 0x69, 0x35, 0x72, 0x52, 0x20],
   [0xFF, 0x43, 0x70, 0x6C, 0x42, 0x73, 0x54, 0x45, 0x2A, 0x75, 0x66, 0x65, 0x30, 0x6F, 0x4E, 0x20],
   [0xFF, 0x44, 0x0A, 0x6E, 0x4D, 0x74, 0x62, 0x61, 0x3A, 0x2D, 0x67, 0x69, 0x33, 0x72, 0x4F, 0x20],
   [0x79, 0x41, 0x6D, 0x6C, 0x38, 0x73, 0x53, 0x45, 0x77, 0x75, 0x64, 0x65, 0x2C, 0x6F, 0x4C, 0x20],
   [0xFF, 0x49, 0x29, 0x6E, 0x6B, 0x74, 0x63, 0x61, 0x5F, 0x31, 0x68, 0x69, 0x37, 0x72, 0x52, 0x20],
   [0xFF, 0x43, 0x70, 0x6C, 0x46, 0x73, 0x54, 0x45, 0x2F, 0x75, 0x66, 0x65, 0x32, 0x6F, 0x4E, 0x20],
   [0xFF, 0x44, 0x0D, 0x6E, 0x50, 0x74, 0x62, 0x61, 0x47, 0x2D, 0x67, 0x69, 0x34, 0x72, 0x4F, 0x20],
   [0xFF, 0x41, 0x6D, 0x6C, 0x3D, 0x73, 0x53, 0x45, 0x09, 0x75, 0x64, 0x65, 0x2E, 0x6F, 0x4C, 0x20],
   [0xFF, 0x49, 0x28, 0x6E, 0x55, 0x74, 0x63, 0x61, 0x57, 0x31, 0x68, 0x69, 0x35, 0x72, 0x52, 0x20],
   [0xFF, 0x43, 0x70, 0x6C, 0x42, 0x73, 0x54, 0x45, 0x27, 0x75, 0x66, 0x65, 0x30, 0x6F, 0x4E, 0x20],
   [0xFF, 0x44, 0x0A, 0x6E, 0x4D, 0x74, 0x62, 0x61, 0x39, 0x2D, 0x67, 0x69, 0x33, 0x72, 0x4F, 0x20],
   [0x78, 0x41, 0x6D, 0x6C, 0x38, 0x73, 0x53, 0x45, 0x77, 0x75, 0x64, 0x65, 0x2C, 0x6F, 0x4C, 0x20]].flatten

/-- `T2D34` (R178). -/
def t2d34Rom : List Nat := [
   [0x100, 0x7C, 0xCB, 0x56, 0x100, 0x24, 0x5E, 0x100, 0x100, 0x3C, 0xBB, 0x3E, 0x100, 0x59, 0x13, 0x100],
   [0x100, 0x5A, 0xC3, 0x4B, 0x100, 0x5D, 0x1C, 0x100, 0x100, 0x71, 0xB3, 0x2B, 0x100, 0x58, 0x08, 0x100],
   [0x100, 0x6A, 0xC7, 0x56, 0x100, 0x21, 0x23, 0x100, 0x100, 0x7A, 0xB7, 0x3E, 0x100, 0x59, 0x0F, 0x100],
   [0x100, 0x4A, 0xBF, 0x4B, 0x100, 0x5D, 0x17, 0x100, 0x100, 0x26, 0x7F, 0x2B, 0x100, 0x58, 0x04, 0x100],
   [0x100, 0x7B, 0xC9, 0x56, 0x100, 0x24, 0x3B, 0x100, 0x100, 0x00, 0xB9, 0x3E, 0x100, 0x59, 0x11, 0x100],
   [0x100, 0x51, 0xC1, 0x4B, 0x100, 0x5D, 0x19, 0x100, 0x100, 0x71, 0xB1, 0x2B, 0x100, 0x58, 0x06, 0x100],
   [0x100, 0x5C, 0xC5, 0x56, 0x100, 0x21, 0x1E, 0x100, 0x100, 0x7A, 0xB5, 0x3E, 0x100, 0x59, 0x0C, 0x100],
   [0x100, 0x3F, 0xBD, 0x4B, 0x100, 0x5D, 0x15, 0x100, 0x100, 0x26, 0x7D, 0x2B, 0x100, 0x58, 0x02, 0x100],
   [0x100, 0x7C, 0xCA, 0x56, 0x100, 0x24, 0x40, 0x100, 0x100, 0x3C, 0xBA, 0x3E, 0x100, 0x59, 0x12, 0x100],
   [0x100, 0x5A, 0xC2, 0x4B, 0x100, 0x5D, 0x1B, 0x100, 0x100, 0x71, 0xB2, 0x2B, 0x100, 0x58, 0x07, 0x100],
   [0x100, 0x6A, 0xC6, 0x56, 0x100, 0x21, 0x1F, 0x100, 0x100, 0x7A, 0xB6, 0x3E, 0x100, 0x59, 0x0E, 0x100],
   [0x100, 0x4A, 0xBE, 0x4B, 0x100, 0x5D, 0x16, 0x100, 0x100, 0x26, 0x7E, 0x2B, 0x100, 0x58, 0x03, 0x100],
   [0x100, 0x7B, 0xC8, 0x56, 0x100, 0x24, 0x25, 0x100, 0x100, 0x00, 0xB8, 0x3E, 0x100, 0x59, 0x10, 0x100],
   [0x100, 0x51, 0xC0, 0x4B, 0x100, 0x5D, 0x18, 0x100, 0x100, 0x71, 0xB0, 0x2B, 0x100, 0x58, 0x05, 0x100],
   [0x100, 0x5C, 0xC4, 0x56, 0x100, 0x21, 0x1D, 0x100, 0x100, 0x7A, 0xB4, 0x3E, 0x100, 0x59, 0x0B, 0x100],
   [0x100, 0x3F, 0xBC, 0x4B, 0x100, 0x5D, 0x14, 0x100, 0x100, 0x26, 0x60, 0x2B, 0x100, 0x58, 0x01, 0x100]].flatten

/-- `T2E34` (R179). -/
def t2e34Rom : List Nat := [
   [0x100, 0x88, 0xA8, 0xDB, 0x100, 0xEE, 0x98, 0xD3, 0x100, 0x80, 0xA0, 0xD7, 0x100, 0xDF, 0x90, 0xCF],
   [0x100, 0x84, 0xA4, 0xD9, 0x100, 0xE5, 0x94, 0xD1, 0x100, 0xF3, 0x9C, 0xD5, 0x100, 0xDD, 0x8C, 0xCD],
   [0x100, 0x86, 0xA6, 0xDA, 0x100, 0xE9, 0x96, 0xD2, 0x100, 0xF4, 0x9E, 0xD6, 0x100, 0xDE, 0x8E, 0xCE],
   [0x100, 0x82, 0xA2, 0xD8, 0x100, 0xE1, 0x92, 0xD0, 0x100, 0xF2, 0x9A, 0xD4, 0x100, 0xDC, 0x8A, 0xCC],
   [0x100, 0x87, 0xA7, 0xDB, 0x100, 0xEE, 0x97, 0xD3, 0x100, 0x1A, 0x9F, 0xD7, 0x100, 0xDF, 0x8F, 0xCF],
   [0x100, 0x83, 0xA3, 0xD9, 0x100, 0xE5, 0x93, 0xD1, 0x100, 0xF3, 0x9B, 0xD5, 0x100, 0xDD, 0x8B, 0xCD],
   [0x100, 0x85, 0xA5, 0xDA, 0x100, 0xE9, 0x95, 0xD2, 0x100, 0xF4, 0x9D, 0xD6, 0x100, 0xDE, 0x8D, 0xCE],
   [0x100, 0x81, 0xA1, 0xD8, 0x100, 0xE1, 0x91, 0xD0, 0x100, 0xF2, 0x99, 0xD4, 0x100, 0xDC, 0x89, 0xCC]].flatten

/-- `T2EB4` (R180). -/
def t2eb4Rom : List Nat := [
   [0xFF, 0xEB, 0xF7, 0xE0, 0xFB, 0xE6, 0xF0, 0xAC, 0xFD, 0xE8, 0xF5, 0xAE, 0xF9, 0xE3, 0xED, 0xAA],
   [0xFE, 0xEA, 0xF6, 0xAF, 0xFA, 0xE4, 0xEF, 0xAB, 0xFC, 0xE7, 0xF1, 0xAD, 0xF8, 0xE2, 0xEC, 0xA9],
   [0xFF, 0xEB, 0xF7, 0xE0, 0xFB, 0xE6, 0xF0, 0xAC, 0xFD, 0xE8, 0xF5, 0xAE, 0xF9, 0xE3, 0xED, 0xAA],
   [0xFE, 0xEA, 0xF6, 0xAF, 0xFA, 0xE4, 0xEF, 0xAB, 0xFC, 0xE7, 0xF1, 0xAD, 0xF8, 0xE2, 0xEC, 0xA9],
   [0xFF, 0xEB, 0xF7, 0xE0, 0xFB, 0xE6, 0xF0, 0xAC, 0xFD, 0xE8, 0xF5, 0xAE, 0xF9, 0xE3, 0xED, 0xAA],
   [0xFE, 0xEA, 0xF6, 0xAF, 0xFA, 0xE4, 0xEF, 0xAB, 0xFC, 0xE7, 0xF1, 0xAD, 0xF8, 0xE2, 0xEC, 0xA9],
   [0xFF, 0xEB, 0xF7, 0xE0, 0xFB, 0xE6, 0xF0, 0xAC, 0xFD, 0xE8, 0xF5, 0xAE, 0xF9, 0xE3, 0xED, 0xAA],
   [0xFE, 0xEA, 0xF6, 0xAF, 0xFA, 0xE4, 0xEF, 0xAB, 0xFC, 0xE7, 0xF1, 0xAD, 0xF8, 0xE2, 0xEC, 0xA9],
   [0xFF, 0xEB, 0xF7, 0xE0, 0xFB, 0xE6, 0xF0, 0xAC, 0xFD, 0xE8, 0xF5, 0xAE, 0xF9, 0xE3, 0xED, 0xAA],
   [0xFE, 0xEA, 0xF6, 0xAF, 0xFA, 0xE4, 0xEF, 0xAB, 0xFC, 0xE7, 0xF1, 0xAD, 0xF8, 0xE2, 0xEC, 0xA9],
   [0xFF, 0xEB, 0xF7, 0xE0, 0xFB, 0xE6, 0xF0, 0xAC, 0xFD, 0xE8, 0xF5, 0xAE, 0xF9, 0xE3, 0xED, 0xAA],
   [0xFE, 0xEA, 0xF6, 0xAF, 0xFA, 0xE4, 0xEF, 0xAB, 0xFC, 0xE7, 0xF1, 0xAD, 0xF8, 0xE2, 0xEC, 0xA9],
   [0xFF, 0xEB, 0xF7, 0xE0, 0xFB, 0xE6, 0xF0, 0xAC, 0xFD, 0xE8, 0xF5, 0xAE, 0xF9, 0xE3, 0xED, 0xAA],
   [0xFE, 0xEA, 0xF6, 0xAF, 0xFA, 0xE4, 0xEF, 0xAB, 0xFC, 0xE7, 0xF1, 0xAD, 0xF8, 0xE2, 0xEC, 0xA9],
   [0xFF, 0xEB, 0xF7, 0xE0, 0xFB, 0xE6, 0xF0, 0xAC, 0xFD, 0xE8, 0xF5, 0xAE, 0xF9, 0xE3, 0xED, 0xAA],
   [0xFE, 0xEA, 0xF6, 0xAF, 0xFA, 0xE4, 0xEF, 0xAB, 0xFC, 0xE7, 0xF1, 0xAD, 0xF8, 0xE2, 0xEC, 0xA9]].flatten

/-- The five tables an Ascii stream's engine holds. The contents are constants of the format, so they may be held in ROM
(R175); that the generator makes exactly these is `generateAsciiTables_eq` (Laws/Tables.lean). -/
def asciiTables : AsciiTables where
  t2c34 := t2c34Rom.map slotOf
  t2d34 := t2d34Rom.map slotOf
  t2e34 := t2e34Rom.map slotOf
  t2eb4 := t2eb4Rom.map slotOf
  chBits := chBitsRom.map (BitVec.ofNat 4)

/-- The tables of an EXPLODE engine once the header is parsed (R208): no CodeTable (R39). -/
def explodeTables (ct : CType) : BuiltTables where
  ct := none
  ascii := match ct with
    | .binary => none
    | .ascii => some asciiTables
  lenLut := some lenLut
  distLut := some distLut

/-- The tables of an IMPLODE engine once its stream has started: the CodeTable alone (R261). -/
def implodeTables (ct : CType) : BuiltTables where
  ct := some (codeTable ct)
  ascii := none
  lenLut := none
  distLut := none

/-- No table built yet (R39). -/
def noTables : BuiltTables where
  ct := none
  ascii := none
  lenLut := none
  distLut := none

end Sys2Proof.Machine
end

