-- ==== Sys2Proof/Machine/Operands.lean ====
section
/-! DEFINITION. Header field codes, the values derived from the header (R29), and operand assembly: match length, distance
width, raw distance, offset (R98, R100, R101, R154, R155, R158), symbol numbers (R102). -/

namespace Sys2Proof.Machine

/-- Header byte 0 of a compression type (R9, R91). -/
def ctypeCode : CType → Byte
  | .binary => 0x00
  | .ascii => 0x01

/-- Header byte 1 of a dictionary-size class (R9, R92). -/
def dsizeCode : DSize → Byte
  | .small => 0x04
  | .medium => 0x05
  | .large => 0x06

/-- The compression type a byte names, if it is legal (R91). -/
def ctypeOf (b : Byte) : Option CType :=
  if b = 0x00 then some .binary else if b = 0x01 then some .ascii else none

/-- The dictionary-size class a byte names, if it is legal (R92). -/
def dsizeOf (b : Byte) : Option DSize :=
  if b = 0x04 then some .small else if b = 0x05 then some .medium else if b = 0x06 then some .large else none

/-- `DBITS = HDR.DSIZE` (R29). -/
def dbits (ds : DSize) : Nat := (dsizeCode ds).toNat

/-- `W = 1 << (DBITS + 6)`: 1024, 2048, 4096 (R8, R29). -/
def windowReach (ds : DSize) : Nat := 1 <<< (dbits ds + 6)

/-- `DMASK = (1 << DBITS) - 1` (R29). -/
def dmask (ds : DSize) : Nat := (1 <<< dbits ds) - 1

/-- The bit count of a low-distance width. -/
def widthBits : DistWidth → Nat
  | .two => 2
  | .four => 4
  | .five => 5
  | .six => 6

/-- The width that carries `DBITS` bits. -/
def dsizeWidth : DSize → DistWidth
  | .small => .four
  | .medium => .five
  | .large => .six

/-- The width of a `dlow` field. -/
def lowWidth : DistLow → DistWidth
  | .w2 _ => .two
  | .w4 _ => .four
  | .w5 _ => .five
  | .w6 _ => .six

/-- The value of a `dlow` field. -/
def lowValue : DistLow → Nat
  | .w2 v => v.toNat
  | .w4 v => v.toNat
  | .w5 v => v.toNat
  | .w6 v => v.toNat

/-- The `dlow` field of a width that holds `v`. -/
def lowOf (w : DistWidth) (v : Nat) : DistLow :=
  match w with
  | .two => .w2 (BitVec.ofNat 2 v)
  | .four => .w4 (BitVec.ofNat 4 v)
  | .five => .w5 (BitVec.ofNat 5 v)
  | .six => .w6 (BitVec.ofNat 6 v)

/-- `n`: 2 low distance bits for a match of length 2 when `LEN2_SHORT_DIST` holds, else `DBITS` (R98, R155, R159). -/
def distWidth (len2Short : Bool) (len : Nat) (ds : DSize) : DistWidth :=
  if len = 2 ∧ len2Short = true then .two else dsizeWidth ds

/-- Match length `L = 2 + LenBase[i] + lextra` (R100). -/
def matchLength (bucket extra : Nat) : Nat := 2 + lenBase bucket + extra

/-- Raw distance `D = (c << n) | dlow` (R98). -/
def rawDistance (index : Nat) (low : DistLow) : Nat := (index <<< widthBits (lowWidth low)) ||| lowValue low

/-- Offset `OFF = D + 1` (R101, C1). -/
def matchOffset (index : Nat) (low : DistLow) : Nat := rawDistance index low + 1

/-- The symbol of a length: `0x100 + L - 2` (R102). -/
def lengthSymbol (len : Nat) : Nat := 0x100 + len - 2

end Sys2Proof.Machine
end

