-- ==== Sys2Proof/WellFormed.lean ====
section
/-! DEFINITION. Which terms of `Instr` stand for an item of the stream. Operand widths are carried by the constructors'
types; the one condition left is the precedence of EOS over LEN.15 (R97, R106). -/

namespace Sys2Proof

/-- LEN.15 with all eight extra bits 1 is not a length (R97): those bits are the EOS item. Every other term is an item. -/
def Item.wellFormed : Item → Bool
  | .hdr0 _ => true
  | .hdr1 _ => true
  | .litB _ => true
  | .litA _ => true
  | .len bucket extra => !(bucket == 15 && extra == 255)
  | .eos => true
  | .dist _ _ => true

def Instr.WellFormed (i : Instr) : Bool := i.item.wellFormed

end Sys2Proof
end

