-- ==== Sys2Proof/Decode.lean ====
section
/-! DEFINITION. Stream bits (R12, R63), the read side of the bit cursor on a run of available bits (R122, R123), the decoder
(R154 to R157, R182, R205, R223), and after it the encoder, written from the same tables (R91 to R98). -/

namespace Sys2Proof

/-! ## Bits -/

/-- The value of a field: the first bit in stream order is bit 0 (R12). -/
def bitsValue : Bits → Nat
  | [] => 0
  | b :: bs => b.toNat + 2 * bitsValue bs

/-- The `n` low bits of `v` in stream order (R63). -/
def natBits : Nat → Nat → Bits
  | 0, _ => []
  | n + 1, v => (v % 2 == 1) :: natBits n (v / 2)

/-- The stream bits of a byte sequence: bit `k mod 8` of byte `k div 8` (R12). -/
def bytesBits (bytes : List Byte) : Bits := bytes.flatMap fun b => natBits 8 b.toNat

/-- A byte holding the given bits, the first at bit 0, the missing ones 0. -/
def byteOf (bs : Bits) : Byte := BitVec.ofNat 8 (bitsValue bs)

/-- Bits packed into bytes, the last one completed with zero bits (R65). -/
def packBits : Bits → List Byte
  | b0 :: b1 :: b2 :: b3 :: b4 :: b5 :: b6 :: b7 :: rest => byteOf [b0, b1, b2, b3, b4, b5, b6, b7] :: packBits rest
  | [] => []
  | short => [byteOf short]

/-! ## The read side of the bit cursor (R120, R122, R123)

The argument is the run of bits available from the working position on; `none` is the spec's `NeedMore`. -/

/-- `peekBits(n)`: bits that have not arrived read as 0, nothing is consumed (R123). -/
def peekBits (n : Nat) (bs : Bits) : Nat := bitsValue (bs.take n)

/-- `skipBits(n)` (R123). -/
def skipBits (n : Nat) (bs : Bits) : Option Bits := if n ≤ bs.length then some (bs.drop n) else none

/-- `takeBits(n)` (R122). -/
def takeBits (n : Nat) (bs : Bits) : Option (Nat × Bits) :=
  if n ≤ bs.length then some (bitsValue (bs.take n), bs.drop n) else none

/-! ## Rows by number -/

/-- The row LIT.A of a literal byte. -/
def Instr.litA (byte : Byte) : Instr :=
  [
   [.litA00, .litA01, .litA02, .litA03, .litA04, .litA05, .litA06, .litA07],
   [.litA08, .litA09, .litA0A, .litA0B, .litA0C, .litA0D, .litA0E, .litA0F],
   [.litA10, .litA11, .litA12, .litA13, .litA14, .litA15, .litA16, .litA17],
   [.litA18, .litA19, .litA1A, .litA1B, .litA1C, .litA1D, .litA1E, .litA1F],
   [.litA20, .litA21, .litA22, .litA23, .litA24, .litA25, .litA26, .litA27],
   [.litA28, .litA29, .litA2A, .litA2B, .litA2C, .litA2D, .litA2E, .litA2F],
   [.litA30, .litA31, .litA32, .litA33, .litA34, .litA35, .litA36, .litA37],
   [.litA38, .litA39, .litA3A, .litA3B, .litA3C, .litA3D, .litA3E, .litA3F],
   [.litA40, .litA41, .litA42, .litA43, .litA44, .litA45, .litA46, .litA47],
   [.litA48, .litA49, .litA4A, .litA4B, .litA4C, .litA4D, .litA4E, .litA4F],
   [.litA50, .litA51, .litA52, .litA53, .litA54, .litA55, .litA56, .litA57],
   [.litA58, .litA59, .litA5A, .litA5B, .litA5C, .litA5D, .litA5E, .litA5F],
   [.litA60, .litA61, .litA62, .litA63, .litA64, .litA65, .litA66, .litA67],
   [.litA68, .litA69, .litA6A, .litA6B, .litA6C, .litA6D, .litA6E, .litA6F],
   [.litA70, .litA71, .litA72, .litA73, .litA74, .litA75, .litA76, .litA77],
   [.litA78, .litA79, .litA7A, .litA7B, .litA7C, .litA7D, .litA7E, .litA7F],
   [.litA80, .litA81, .litA82, .litA83, .litA84, .litA85, .litA86, .litA87],
   [.litA88, .litA89, .litA8A, .litA8B, .litA8C, .litA8D, .litA8E, .litA8F],
   [.litA90, .litA91, .litA92, .litA93, .litA94, .litA95, .litA96, .litA97],
   [.litA98, .litA99, .litA9A, .litA9B, .litA9C, .litA9D, .litA9E, .litA9F],
   [.litAA0, .litAA1, .litAA2, .litAA3, .litAA4, .litAA5, .litAA6, .litAA7],
   [.litAA8, .litAA9, .litAAA, .litAAB, .litAAC, .litAAD, .litAAE, .litAAF],
   [.litAB0, .litAB1, .litAB2, .litAB3, .litAB4, .litAB5, .litAB6, .litAB7],
   [.litAB8, .litAB9, .litABA, .litABB, .litABC, .litABD, .litABE, .litABF],
   [.litAC0, .litAC1, .litAC2, .litAC3, .litAC4, .litAC5, .litAC6, .litAC7],
   [.litAC8, .litAC9, .litACA, .litACB, .litACC, .litACD, .litACE, .litACF],
   [.litAD0, .litAD1, .litAD2, .litAD3, .litAD4, .litAD5, .litAD6, .litAD7],
   [.litAD8, .litAD9, .litADA, .litADB, .litADC, .litADD, .litADE, .litADF],
   [.litAE0, .litAE1, .litAE2, .litAE3, .litAE4, .litAE5, .litAE6, .litAE7],
   [.litAE8, .litAE9, .litAEA, .litAEB, .litAEC, .litAED, .litAEE, .litAEF],
   [.litAF0, .litAF1, .litAF2, .litAF3, .litAF4, .litAF5, .litAF6, .litAF7],
   [.litAF8, .litAF9, .litAFA, .litAFB, .litAFC, .litAFD, .litAFE, .litAFF]].flatten.getD byte.toNat .litA00

/-- The row LEN of a bucket, with its extra bits (R96). -/
def Instr.len (bucket extra : Nat) : Instr :=
  match bucket with
  | 0 => .len0
  | 1 => .len1
  | 2 => .len2
  | 3 => .len3
  | 4 => .len4
  | 5 => .len5
  | 6 => .len6
  | 7 => .len7
  | 8 => .len8 (BitVec.ofNat 1 extra)
  | 9 => .len9 (BitVec.ofNat 2 extra)
  | 10 => .len10 (BitVec.ofNat 3 extra)
  | 11 => .len11 (BitVec.ofNat 4 extra)
  | 12 => .len12 (BitVec.ofNat 5 extra)
  | 13 => .len13 (BitVec.ofNat 6 extra)
  | 14 => .len14 (BitVec.ofNat 7 extra)
  | _ => .len15 (BitVec.ofNat 8 extra)

/-- The row DIST of a distance code index, with its low bits (R98). -/
def Instr.dist (index : Nat) (low : DistLow) : Instr :=
  [
   [.dist0 low, .dist1 low, .dist2 low, .dist3 low, .dist4 low, .dist5 low, .dist6 low, .dist7 low],
   [.dist8 low, .dist9 low, .dist10 low, .dist11 low, .dist12 low, .dist13 low, .dist14 low, .dist15 low],
   [.dist16 low, .dist17 low, .dist18 low, .dist19 low, .dist20 low, .dist21 low, .dist22 low, .dist23 low],
   [.dist24 low, .dist25 low, .dist26 low, .dist27 low, .dist28 low, .dist29 low, .dist30 low, .dist31 low],
   [.dist32 low, .dist33 low, .dist34 low, .dist35 low, .dist36 low, .dist37 low, .dist38 low, .dist39 low],
   [.dist40 low, .dist41 low, .dist42 low, .dist43 low, .dist44 low, .dist45 low, .dist46 low, .dist47 low],
   [.dist48 low, .dist49 low, .dist50 low, .dist51 low, .dist52 low, .dist53 low, .dist54 low, .dist55 low],
   [.dist56 low, .dist57 low, .dist58 low, .dist59 low, .dist60 low, .dist61 low, .dist62 low, .dist63 low]].flatten.getD index (.dist63 low)

/-- The row HDR0 of a compression type (R91). -/
def Instr.hdr0 : CType → Instr
  | .binary => .hdr0Binary
  | .ascii => .hdr0Ascii

/-- The row HDR1 of a dictionary-size class (R92). -/
def Instr.hdr1 : DSize → Instr
  | .small => .hdr1Small
  | .medium => .hdr1Medium
  | .large => .hdr1Large

/-- The instruction of a shape. -/
def Instr.ofItem : Item → Instr
  | .hdr0 ct => .hdr0 ct
  | .hdr1 ds => .hdr1 ds
  | .litB byte => .litB byte
  | .litA byte => .litA byte
  | .len bucket extra => .len bucket extra
  | .eos => .eos
  | .dist index low => .dist index low

/-! ## The decoder -/

/-- What the decoder reads: an item and the bits after it; `needMore` when the item is not wholly there (R228); a header
byte with no meaning (R91, R92); no defined symbol (R104 item 5, R223); or a table that is not built, which no run meets. -/
inductive Decoded where
  | item (i : Instr) (rest : Bits)
  | needMore
  | badCompressionType (byte : Byte)
  | badDictionarySize (byte : Byte)
  | malformedSymbol
  | tableNotBuilt
  deriving DecidableEq, Repr

/-- What the ASCII literal decoder reads (R182). -/
inductive LiteralRead where
  | literal (byte : Byte) (rest : Bits)
  | needMore
  | malformedSymbol
  deriving DecidableEq, Repr

/-- The end of `decodeAsciiLiteral`: a `NONE` slot raises, else `CHBITS[v]` bits are skipped (R182). -/
def finishLiteral (t : AsciiTables) (slot : Option Byte) (bs : Bits) : LiteralRead :=
  match slot with
  | none => .malformedSymbol
  | some v =>
    match skipBits (t.chBits.getD v.toNat 0).toNat bs with
    | none => .needMore
    | some rest => .literal v rest

/-- Skip the bits already used, index the secondary table with the next ones, finish (R182, classes B, C, D). -/
def secondaryLiteral (t : AsciiTables) (table : List (Option Byte)) (skip width : Nat) (bs : Bits) : LiteralRead :=
  match skipBits skip bs with
  | none => .needMore
  | some bs => finishLiteral t (table.getD (peekBits width bs) none) bs

/-- `decodeAsciiLiteral()` (R182), on the bits after a discriminator 0. -/
def decodeAsciiLiteral (t : AsciiTables) (bs : Bits) : LiteralRead :=
  let p := peekBits 8 bs
  if p = 0 then secondaryLiteral t t.t2eb4 8 8 bs
  else if t.t2c34.getD p none = some 0xFF then
    if p % 0x40 = 0 then secondaryLiteral t t.t2e34 6 7 bs else secondaryLiteral t t.t2d34 4 8 bs
  else finishLiteral t (t.t2c34.getD p none) bs

/-- A literal of an Ascii stream as an item (R225). -/
def decodeLitA (t : BuiltTables) (bs : Bits) : Decoded :=
  match t.ascii with
  | none => .tableNotBuilt
  | some tables =>
    match decodeAsciiLiteral tables bs with
    | .literal v rest => .item (.litA v) rest
    | .needMore => .needMore
    | .malformedSymbol => .malformedSymbol

/-- A literal of a Binary stream (R224). -/
def decodeLitB (bs : Bits) : Decoded :=
  match takeBits 8 bs with
  | none => .needMore
  | some (v, rest) => .item (.litB (BitVec.ofNat 8 v)) rest

/-- The item of a symbol of the length alphabet: EOS, a length, or no defined symbol (R97, R104, R223). -/
def lengthItem (bucket extra : Nat) (rest : Bits) : Decoded :=
  let symbol := 0x100 + Machine.lenBase bucket + extra
  if symbol = Config.eosSym then .item .eos rest
  else if symbol < Config.eosSym then .item (.len bucket extra) rest
  else .malformedSymbol

/-- Length decode through `LENLUT`, on the bits after a discriminator 1 (R154, R156). -/
def decodeLength (t : BuiltTables) (bs : Bits) : Decoded :=
  match t.lenLut with
  | none => .tableNotBuilt
  | some lut =>
    match lut[peekBits 8 bs]? with
    | none => .malformedSymbol
    | some entry =>
      match skipBits (Machine.romAt Machine.lenBits entry.toNat) bs with
      | none => .needMore
      | some bs =>
        match takeBits (Machine.romAt Machine.exLenBits entry.toNat) bs with
        | none => .needMore
        | some (extra, rest) => lengthItem entry.toNat extra rest

/-- Distance decode through `DISTLUT` (R155, R157). -/
def decodeDistance (t : BuiltTables) (w : DistWidth) (bs : Bits) : Decoded :=
  match t.distLut with
  | none => .tableNotBuilt
  | some lut =>
    match lut[peekBits 8 bs]? with
    | none => .malformedSymbol
    | some entry =>
      match skipBits (Machine.romAt Machine.distBits entry.toNat) bs with
      | none => .needMore
      | some bs =>
        match takeBits (Machine.widthBits w) bs with
        | none => .needMore
        | some (v, rest) => .item (.dist entry.toNat (Machine.lowOf w v)) rest

/-- `decodeSymbol()` up to the distance part: the discriminator chooses the alphabet (R93, R223). -/
def decodeSymbol (t : BuiltTables) (ct : CType) (bs : Bits) : Decoded :=
  match takeBits 1 bs with
  | none => .needMore
  | some (d, rest) =>
    if d = 0 then
      match ct with
      | .binary => decodeLitB rest
      | .ascii => decodeLitA t rest
    else decodeLength t rest

/-- Header byte 0 (R91, R205). -/
def decodeHdr0 (bs : Bits) : Decoded :=
  match takeBits 8 bs with
  | none => .needMore
  | some (v, rest) =>
    match Machine.ctypeOf (BitVec.ofNat 8 v) with
    | none => .badCompressionType (BitVec.ofNat 8 v)
    | some ct => .item (.hdr0 ct) rest

/-- Header byte 1 (R92, R205). -/
def decodeHdr1 (bs : Bits) : Decoded :=
  match takeBits 8 bs with
  | none => .needMore
  | some (v, rest) =>
    match Machine.dsizeOf (BitVec.ofNat 8 v) with
    | none => .badDictionarySize (BitVec.ofNat 8 v)
    | some ds => .item (.hdr1 ds) rest

/-- The decoder: one item from the bits available at a place of the stream (R90, R103). -/
def decode (t : BuiltTables) (p : Place) (bs : Bits) : Decoded :=
  match p with
  | .hdr0 => decodeHdr0 bs
  | .hdr1 => decodeHdr1 bs
  | .symbol ct => decodeSymbol t ct bs
  | .distance w => decodeDistance t w bs

/-! ## The encoder -/

/-- The bits of an item in stream order (R91, R92, R94 to R98). -/
def encodeItem : Item → Bits
  | .hdr0 ct => natBits 8 (Machine.ctypeCode ct).toNat
  | .hdr1 ds => natBits 8 (Machine.dsizeCode ds).toNat
  | .litB byte => false :: natBits 8 byte.toNat
  | .litA byte =>
    false :: natBits (Machine.romAt Machine.chBitsAsc byte.toNat) (Machine.romAt Machine.chCodeAsc byte.toNat)
  | .len bucket extra =>
    true :: (natBits (Machine.romAt Machine.lenBits bucket) (Machine.romAt Machine.lenCode bucket)
      ++ natBits (Machine.romAt Machine.exLenBits bucket) extra)
  | .eos =>
    true :: (natBits (Machine.romAt Machine.lenBits 15) (Machine.romAt Machine.lenCode 15)
      ++ natBits (Machine.romAt Machine.exLenBits 15) 255)
  | .dist index low =>
    natBits (Machine.romAt Machine.distBits index) (Machine.romAt Machine.distCode index)
      ++ natBits (Machine.widthBits (Machine.lowWidth low)) (Machine.lowValue low)

/-- The bits of a well-formed instruction. -/
def encode (i : Instr) : Bits := encodeItem i.item

/-- The size of an item in bits (R107; `size_bits` of R106). -/
def itemBits : Item → Nat
  | .hdr0 _ => 8
  | .hdr1 _ => 8
  | .litB _ => 9
  | .litA byte => 1 + Machine.romAt Machine.chBitsAsc byte.toNat
  | .len bucket _ => 1 + Machine.romAt Machine.lenBits bucket + Machine.romAt Machine.exLenBits bucket
  | .eos => 16
  | .dist index low => Machine.romAt Machine.distBits index + Machine.widthBits (Machine.lowWidth low)

/-- A place of the stream where an item can stand. LEN and EOS can stand in a stream of either type. -/
def itemPlace : Item → Place
  | .hdr0 _ => .hdr0
  | .hdr1 _ => .hdr1
  | .litB _ => .symbol .binary
  | .litA _ => .symbol .ascii
  | .len _ _ => .symbol .binary
  | .eos => .symbol .binary
  | .dist _ low => .distance (Machine.lowWidth low)

/-! ## Words of the opcode table

A row's word does not say where it stands, and the same bits are several rows (R106: `HDR0.BINARY`, `LIT.B` and `DIST.63`
all have the byte 0). `decodeTableWord` gives the word to the decoder at each place in turn (log 10). -/

/-- `width_fixed` and `match` of an item's row (R106). -/
def rowFixed : Item → Nat × Nat
  | .hdr0 ct => (8, (Machine.ctypeCode ct).toNat)
  | .hdr1 ds => (8, (Machine.dsizeCode ds).toNat)
  | .litB _ => (1, 0)
  | .litA byte => (1 + Machine.romAt Machine.chBitsAsc byte.toNat, Machine.romAt Machine.chCodeAsc byte.toNat <<< 1)
  | .len bucket _ =>
    (1 + Machine.romAt Machine.lenBits bucket, (Machine.romAt Machine.lenCode bucket <<< 1) ||| 1)
  | .eos => (16, 0xFF01)
  | .dist index _ => (Machine.romAt Machine.distBits index, Machine.romAt Machine.distCode index)

/-- The word is exactly the row's fixed bits, in whole bytes. -/
def isRowWord (nbits w : Nat) (i : Instr) : Bool :=
  (rowFixed i.item).2 == w && ((rowFixed i.item).1 + 7) / 8 * 8 == nbits

/-- The instruction at a place, if the bits there are one. -/
def decodedInstr : Decoded → Option Instr
  | .item i _ => some i
  | _ => none

/-- The tables the word decoder reads: those of an Ascii stream, which hold all three alphabets. -/
def wordTables : BuiltTables := Machine.explodeTables .ascii

/-- The bits of a table word, and zero bits up to the longest fetch. -/
def wordBits (nbits w : Nat) : Bits := natBits nbits w ++ List.replicate Config.fetchSpan false

/-- What a word of the table is at the places of a stream, header bytes first, then a symbol with discriminator 1, a distance
part, and a symbol of an Ascii and of a Binary stream. -/
def wordReadings (nbits w : Nat) : List Instr :=
  let lengthPlace : Place := if w % 2 = 1 then .symbol .binary else .distance .four
  [Place.hdr0, .hdr1, lengthPlace, .distance .four, .symbol .ascii, .symbol .binary].filterMap
    fun p => decodedInstr (decode wordTables p (wordBits nbits w))

/-- The instruction the decoder reads from a word of spec/opcode_table.json: the first reading whose row is this very word,
else what the word is as the first symbol of a Binary stream. -/
def decodeTableWord (nbits w : Nat) : Option Instr :=
  match (wordReadings nbits w).find? (isRowWord nbits w) with
  | some i => some i
  | none => decodedInstr (decode wordTables (.symbol .binary) (wordBits nbits w))

end Sys2Proof
end

