-- ==== Sys2Proof/Machine/State.lean ====
section
/-! DEFINITION. The state of one engine instance (10_state.md), the host's side of its interface (47_engine_interface.md),
why a step can stop, and the state after reset (R39). -/

namespace Sys2Proof.Machine

/-! ## Byte spaces

`IN`, `OUT` and `WIN` (R60) are lists of cells with strictly rising addresses. An unlisted address holds no value (log 15). -/

abbrev Memory := List Host.Cell

/-- The canonical form: addresses strictly rise. -/
def Memory.wf : Memory → Bool
  | [] => true
  | [_] => true
  | c :: d :: m => decide (c.1 < d.1) && Memory.wf (d :: m)

/-! ## Registers -/

/-- `KIND` (R20). -/
inductive Kind where
  | explode
  | implode
  deriving DecidableEq, Repr

/-- `PHASE` (R27). -/
inductive Phase where
  | awaitingHeader
  | streaming
  | flushing
  | done
  | failed
  deriving DecidableEq, Repr

/-- The five error kinds (R310). -/
inductive ErrorKind where
  | invalidData
  | invalidCompressionType
  | invalidDictionarySize
  | truncatedStream
  | malformedSymbol
  deriving DecidableEq, Repr

/-- The three flags (R26). -/
structure Flags where
  needsMore : Bool
  streamEnded : Bool
  eosSeen : Bool
  deriving DecidableEq, Repr

/-- `HDR.CTYPE` and `HDR.DSIZE` (R29); `none` is the spec's "no value until the header is parsed" (R39, U11, log 8). -/
structure Header where
  ctype : Option CType
  dsize : Option DSize
  deriving DecidableEq, Repr

/-- The bit cursor `BC` (R21). `BC.FILLED` is 0 to 7 between operations: a 3-bit register (C8, log 18). -/
structure Cursor where
  partialByte : Byte
  bitsFilled : BitVec 3
  deriving DecidableEq, Repr

/-- `IN` with `IN_BASE` and `IN_TOTAL` (R25, R34). -/
structure Input where
  mem : Memory
  base : Nat
  total : Nat
  deriving DecidableEq, Repr

/-- `OUT` (R35) and the number of bytes ever appended to it, which `OPOS` counts (R22). -/
structure Output where
  mem : Memory
  count : Nat
  deriving DecidableEq, Repr

/-- `WIN` with `WIN_LEN` (R36). -/
structure Window where
  mem : Memory
  len : Nat
  deriving DecidableEq, Repr

/-- What the decode of a MATCH holds between its LEN and its DIST part: the length `L` and the working position `pos`
(R24, R120, R223; log 3). -/
structure PendingMatch where
  length : Nat
  pos : Nat
  deriving DecidableEq, Repr

/-! ## The host's side -/

/-- A host transaction (R290), or the discarding of the instance (R302). Creation arguments are raw bytes (R292). -/
inductive Request where
  | createExplode
  | createImplode (compressionType dictionarySizeClass : Byte)
  | feed (chunk : List Byte)
  | finish
  | discard
  deriving DecidableEq, Repr

/-- The record a transaction returns (R293, R294). -/
structure Reply where
  producedOutput : List Byte
  error : Option ErrorKind
  deriving DecidableEq, Repr

/-- The transaction in progress (log 2). -/
inductive Activity where
  | idle
  | feed
  | finish
  deriving DecidableEq, Repr

/-! ## The parameters left to the implementation

`LEN2_SHORT_DIST` is the field `len2Short` of State (log 5). -/

/-- The capacities of the three byte spaces, in bytes, and the width of the position counters, in bits (R10, D3, D28, U16);
`none` is "unbounded". -/
structure Limits where
  inCap : Option Nat
  outCap : Option Nat
  winCap : Option Nat
  posWidth : Option Nat
  deriving DecidableEq, Repr

/-- The defaults of R10. -/
def Limits.unbounded : Limits where
  inCap := none
  outCap := none
  winCap := none
  posWidth := none

/-! ## The state -/

structure State where
  kind : Option Kind
  len2Short : Bool
  limits : Limits
  phase : Phase
  err : Option ErrorKind
  flags : Flags
  hdr : Header
  bc : Cursor
  ipos : Nat
  input : Input
  output : Output
  win : Window
  tables : BuiltTables
  pending : Option PendingMatch
  activity : Activity
  requests : List Request
  replies : List Reply
  freeCount : Nat
  deriving DecidableEq, Repr

/-! ## Why a step stops -/

/-- A machine fault: no rule of the spec says what happens. All are safe: the machine stops where the spec is silent. -/
inductive Fault where
  /-- Raised by a `feed` or `finish` when no instance exists ("no instance: no behaviour", R306; R340). Safe. -/
  | noInstance
  /-- Raised by a read of a byte space at an address that holds no value (R191: "No rule calls it outside the
  precondition"). Only states that no run reaches get here. Safe. -/
  | absentByte
  /-- Raised by a read of a table or header register before it has a value (U11: "no rule reads them early"). Only states
  that no run reaches get here. Safe. -/
  | noValue
  /-- Raised by a step in a phase that the transaction in progress never has (R220, R260). Only states that no run reaches
  get here. Safe. -/
  | phaseMismatch
  deriving DecidableEq, Repr

/-- Why an instruction or a stream is turned away. All are safe. -/
inductive Refusal where
  /-- Raised by exec for an instruction that has no meaning yet. Safe. -/
  | notModelled (mnemonic : String)
  /-- Raised by a meaning whose item cannot stand at the engine's place in the stream (R90, R93 to R98: the place decides
  which rows can be read), for example LIT.A in a Binary stream. The decoder never reads such an item. Safe. -/
  | itemOutOfPlace
  /-- Raised by a step of an implementation that bounds a buffer or a counter, where the stream would exceed the bound: it
  "must refuse streams that would exceed it; what it then does is outside this spec" (R126; log 7). With the defaults of R10
  no step gets here. Safe. -/
  | limitExceeded
  deriving DecidableEq, Repr

/-- What a step answers. -/
abbrev Result := Host.Outcome State Fault Refusal

/-- The state after reset: reset is creation (R340), here `createExplodeEngine()` (R39, R291; log 1). -/
def State.reset : State where
  kind := some .explode
  len2Short := true
  limits := .unbounded
  phase := .awaitingHeader
  err := none
  flags := { needsMore := true, streamEnded := false, eosSeen := false }
  hdr := { ctype := none, dsize := none }
  bc := { partialByte := 0, bitsFilled := 0 }
  ipos := 0
  input := { mem := [], base := 0, total := 0 }
  output := { mem := [], count := 0 }
  win := { mem := [], len := 0 }
  tables := noTables
  pending := none
  activity := .idle
  requests := []
  replies := []
  freeCount := 0

end Sys2Proof.Machine
end

