-- ==== Sys2Proof/Machine/Flags.lean ====
section
/-! DEFINITION. The flags (R26), and the codes of `PHASE` and `ERR` (R27, R28). -/

namespace Sys2Proof.Machine

/-- `NEEDS_MORE <- v`. -/
def State.setNeedsMore (s : State) (v : Bool) : State := { s with flags := { s.flags with needsMore := v } }

/-- `STREAM_ENDED <- 1`: by `finish` only (R26, R294). -/
def State.setStreamEnded (s : State) : State := { s with flags := { s.flags with streamEnded := true } }

/-- `EOS_SEEN <- 1`: symbol 0x305 decoded or emitted (R26, R227, R271). -/
def State.setEosSeen (s : State) : State := { s with flags := { s.flags with eosSeen := true } }

/-- `PHASE <- p`. -/
def State.setPhase (s : State) (p : Phase) : State := { s with phase := p }

/-- The code of a phase (R27). -/
def phaseCode : Phase → BitVec 3
  | .awaitingHeader => 0
  | .streaming => 1
  | .flushing => 2
  | .done => 3
  | .failed => 4

/-- The code of `ERR` (R28, R311). -/
def errCode : Option ErrorKind → BitVec 3
  | none => 0
  | some .invalidData => 1
  | some .invalidCompressionType => 2
  | some .invalidDictionarySize => 3
  | some .truncatedStream => 4
  | some .malformedSymbol => 5

end Sys2Proof.Machine
end

