-- ==== Sys2Proof/Machine/Ops.lean ====
section
/-! DEFINITION. The shared operations: byte spaces, the window and its resolver (43_window.md), the bit cursor's write side
(R121, R124), input and output, raising an error (R313), the end of a transaction (R229, R273), and instance creation (R39). -/

namespace Sys2Proof.Machine

/-! ## Byte spaces -/

/-- `MemRead(space, a, 1)`; `none` where the space holds no byte. -/
def Memory.read (m : Memory) (a : Nat) : Option Byte := (m.find? fun c => c.1 == a).map Prod.snd

/-- `MemWrite(space, a, 1, b)`. -/
def Memory.write : Memory → Nat → Byte → Memory
  | [], a, b => [(a, b)]
  | c :: m, a, b =>
    if a < c.1 then (a, b) :: c :: m
    else if a = c.1 then (a, b) :: m
    else c :: Memory.write m a b

/-- The first address after the last byte: `len(OUT)` for a space that starts at 0. -/
def Memory.next (m : Memory) : Nat :=
  match m.getLast? with
  | none => 0
  | some c => c.1 + 1

/-- The bytes of a space in address order. -/
def Memory.bytes (m : Memory) : List Byte := m.map Prod.snd

/-- The space that holds a byte sequence from an address on. -/
def Memory.ofBytes : Nat → List Byte → Memory
  | _, [] => []
  | a, b :: bytes => (a, b) :: Memory.ofBytes (a + 1) bytes

/-- Drop every byte below an address. -/
def Memory.dropBelow (m : Memory) (a : Nat) : Memory := m.filter fun c => decide (a ≤ c.1)

/-! ## Input -/

/-- One byte received: it is `stream_byte(IN_TOTAL)` (R25). -/
def Input.append (i : Input) (b : Byte) : Input := { i with mem := i.mem.write i.total b, total := i.total + 1 }

/-- A chunk received (R293). -/
def Input.receive (i : Input) (chunk : List Byte) : Input := chunk.foldl Input.append i

/-- Bytes before stream byte `k` dropped (R25); `IN_BASE` never moves backwards nor past `IN_TOTAL`. -/
def Input.dropTo (i : Input) (k : Nat) : Input :=
  let base := min i.total (max i.base k)
  { i with mem := i.mem.dropBelow base, base := base }

/-! ## Output -/

/-- `MemWrite(OUT, len(OUT), 1, b)`. -/
def Output.append (o : Output) (b : Byte) : Output := { mem := o.mem.write o.mem.next b, count := o.count + 1 }

def State.outAppend (s : State) (b : Byte) : State := { s with output := s.output.append b }

/-! ## The window -/

/-- `winAppend(b)` (R190). -/
def Window.append (w : Window) (b : Byte) : Window := { mem := w.mem.write w.len b, len := w.len + 1 }

def State.winAppend (s : State) (b : Byte) : State := { s with win := s.win.append b }

/-- `winRead(k)` (R191). -/
def State.winRead (s : State) (k : Nat) : Option Byte := s.win.mem.read k

/-- A decoded byte: appended to the window and to output (R190, R224). -/
def State.emitByte (s : State) (b : Byte) : State := (s.winAppend b).outAppend b

/-- The copy loop of `copyMatch`: the source is read again in each round, after the byte before it was appended (R72, R192).
`none` when a source byte is absent. -/
def copyBytes : Nat → Nat → State → Option State
  | 0, _, s => some s
  | count + 1, off, s =>
    match s.winRead (s.win.len - off) with
    | none => none
    | some b => copyBytes count off (s.emitByte b)

/-! ## Raising an error

There is no return from an error (R323): `Failed` is sticky (R297). -/

/-- Everything the spec leaves unspecified after an error takes a free value (R313, U2; log 4). -/
def State.forget (s : State) : State :=
  { s with
    flags := { s.flags with
      streamEnded := Config.freeStreamEnded s.freeCount
      eosSeen := Config.freeEosSeen s.freeCount }
    hdr := { ctype := Config.freeCType s.freeCount, dsize := Config.freeDSize s.freeCount }
    bc := { partialByte := Config.freePartial s.freeCount, bitsFilled := Config.freeFilled s.freeCount }
    ipos := Config.freeIpos s.freeCount
    input := {
      mem := Memory.ofBytes (Config.freeInBase s.freeCount) (Config.freeInput s.freeCount)
      base := Config.freeInBase s.freeCount
      total := Config.freeInBase s.freeCount + (Config.freeInput s.freeCount).length }
    output := { s.output with count := Config.freeOutCount s.freeCount }
    win := {
      mem := Memory.ofBytes 0 (Config.freeWindow s.freeCount)
      len := (Config.freeWindow s.freeCount).length }
    tables := Config.freeTables s.freeCount
    pending := none
    freeCount := s.freeCount + 1 }

/-- A transaction's record handed to the host. -/
def State.reply (s : State) (r : Reply) : State := { s with replies := s.replies ++ [r] }

/-- `raise E` (R313): `PHASE <- Failed`, `ERR <- E`, `NEEDS_MORE <- 0`, `OUT` emptied, the transaction returns the error
and no output. -/
def raise (e : ErrorKind) (s : State) : State :=
  let t := ((s.forget.setPhase .failed).setNeedsMore false).reply { producedOutput := [], error := some e }
  { t with err := some e, output := { t.output with mem := [] }, activity := .idle }

/-- `copyMatch(L, OFF)` (R192): the reach check comes before the first byte (R69, R233). -/
def copyMatch (count off : Nat) (s : State) : Result :=
  if s.win.len < off then .next (raise .malformedSymbol s)
  else
    match copyBytes count off s with
    | none => .fault .absentByte
    | some t => .next t

/-! ## The end of a transaction -/

/-- How many leading stream bytes the engine has consumed: an EXPLODE engine's `IPOS` counts bits, an IMPLODE engine's
bytes (R24, R25). -/
def State.consumedBytes (s : State) : Nat :=
  match s.kind with
  | some .implode => s.ipos
  | _ => s.ipos / 8

/-- The transaction returns: all of `OUT` is `producedOutput`, and `OUT` is then empty (R35, R229, R273). Consumed input is
dropped here (R25, log 6), and with it any working copy of a decode (R37). -/
def State.deliver (s : State) : State :=
  { s.reply { producedOutput := s.output.mem.bytes, error := none } with
    output := { s.output with mem := [] }
    input := s.input.dropTo s.consumedBytes
    pending := none
    activity := .idle }

/-- The engine stops for lack of input: `NEEDS_MORE <- 1`, nothing else of the decode is kept (R222, R228). -/
def State.stopForInput (s : State) : State := (s.setNeedsMore true).deliver

/-! ## The bit cursor's write side -/

/-- One round of `putBits`: the bit goes to place `BC.FILLED`; a completed byte goes to `OUT` (R121). -/
def State.putBit (s : State) (bit : Bool) : State :=
  let acc := s.bc.partialByte ||| ((BitVec.ofBool bit).setWidth 8 <<< s.bc.bitsFilled.toNat)
  if s.bc.bitsFilled = 7 then { s.outAppend acc with bc := { partialByte := 0, bitsFilled := 0 } }
  else { s with bc := { partialByte := acc, bitsFilled := s.bc.bitsFilled + 1 } }

/-- `putBits(n, v)`: bit 0 of `v` first (R121). -/
def putBits : Nat → BitVec 16 → State → State
  | 0, _, s => s
  | n + 1, v, s => putBits n (v >>> 1) (s.putBit (v.getLsbD 0))

/-- `flush()`: the last byte is completed with zero bits (R124). -/
def State.flush (s : State) : State :=
  if s.bc.bitsFilled = 0 then s
  else { s.outAppend s.bc.partialByte with bc := { partialByte := 0, bitsFilled := 0 } }

/-- `OPOS`, the output stream bits produced so far (R22). -/
def State.opos (s : State) : Nat := 8 * s.output.count + s.bc.bitsFilled.toNat

/-! ## The bit cursor of an EXPLODE engine is the view of `IPOS` (R23) -/

/-- `BC.FILLED` as R23 and R21 give it. -/
def State.cursorFilled (s : State) : Nat :=
  match s.kind with
  | some .explode => (8 - s.ipos % 8) % 8
  | _ => s.bc.bitsFilled.toNat

/-- `BC.PARTIAL` as R23 and R21 give it. -/
def State.cursorPartial (s : State) : Option Byte :=
  match s.kind with
  | some .explode =>
    if s.cursorFilled = 0 then some 0
    else (s.input.mem.read (s.ipos / 8)).map fun b : Byte => (b >>> (s.ipos % 8) : Byte)
  | _ => some s.bc.partialByte

/-! ## The limits of an implementation (R10, R126; log 7) -/

/-- A buffer of this capacity holds `n` bytes. -/
def fitsCapacity (capacity : Option Nat) (n : Nat) : Bool :=
  match capacity with
  | none => true
  | some c => decide (n ≤ c)

/-- A counter of this width holds `n`. -/
def fitsWidth (width : Option Nat) (n : Nat) : Bool :=
  match width with
  | none => true
  | some w => decide (n < 2 ^ w)

/-- The bytes of the window that storage must hold: no rule reads further back than `W` (R70). -/
def State.windowStored (s : State) : Nat :=
  match s.hdr.dsize with
  | none => s.win.len
  | some ds => min s.win.len (windowReach ds)

/-- The counters of width `POS_WIDTH` (R10, R22, R24, R25, R36). `OPOS` is an IMPLODE engine's. -/
def State.counters (s : State) : List Nat :=
  [s.ipos, s.input.total, s.input.base, s.win.len] ++ if s.kind = some .implode then [s.opos] else []

/-- The state keeps within the limits. After an error there is nothing to hold: the buffers and counters are never read
again (R313). -/
def State.fits (s : State) (limits : Limits) : Bool :=
  decide (s.phase = .failed)
    || (s.counters.all (fitsWidth limits.posWidth) && fitsCapacity limits.inCap s.input.mem.length
      && fitsCapacity limits.outCap s.output.mem.length && fitsCapacity limits.winCap s.windowStored)

/-- What a step from `s` leads to, on an implementation with the limits of `s`: a stream that would exceed one is refused
(R126). A transaction that returned in this step had its output in `OUT` before (R35). -/
def limited (s : State) (r : Result) : Result :=
  match r with
  | .next t =>
    if t.fits s.limits = true
        ∧ (t.replies.drop s.replies.length).all (fun reply => fitsCapacity s.limits.outCap reply.producedOutput.length) = true
    then .next t
    else .refused .limitExceeded
  | .fault f => .fault f
  | .refused f => .refused f

/-! ## Creation -/

/-- A new instance (R39): every register at its reset value. The host's queues, the parameters and the counter of free
values are not the instance's. -/
def State.created (s : State) (k : Option Kind) (ct : Option CType) (ds : Option DSize) : State :=
  { State.reset with
    kind := k
    hdr := { ctype := ct, dsize := ds }
    len2Short := s.len2Short
    limits := s.limits
    requests := s.requests
    replies := s.replies
    freeCount := s.freeCount }

end Sys2Proof.Machine
end

