-- ==== Sys2Proof/Machine/Fetch.lean ====
section
/-! DEFINITION. Where an EXPLODE engine stands in its stream, the bits it can fetch there (R12, R120), and placing an item
there from outside. -/

namespace Sys2Proof.Machine

/-- Stream bit `k`, if it has been received (R120: defined only for `k < 8 * IN_TOTAL`). -/
def State.bitAt (s : State) (k : Nat) : Option Bool :=
  if k < 8 * s.input.total then (s.input.mem.read (k / 8)).map fun b : Byte => b.getLsbD (k % 8) else none

/-- Up to `n` available stream bits from bit `k` on. -/
def State.bitsFrom (s : State) : Nat → Nat → Bits
  | 0, _ => []
  | n + 1, k =>
    match s.bitAt k with
    | none => []
    | some b => b :: s.bitsFrom n (k + 1)

/-- The place of the item that is due (R90, R220, R223); `none` when no item is to be decoded: the engine is no EXPLODE
engine inside a `feed`, has seen EOS (R236), has fewer than 4 bytes of header input (R207), or is in another phase. -/
def State.place (s : State) : Option Place :=
  if s.kind = some .explode ∧ s.activity = .feed ∧ s.flags.eosSeen = false then
    match s.phase with
    | .awaitingHeader =>
      if s.input.total < Config.hdrMinAvail then none
      else
        match s.hdr.ctype with
        | none => some .hdr0
        | some _ => some .hdr1
    | .streaming =>
      match s.pending with
      | none => s.hdr.ctype.map Place.symbol
      | some m => s.hdr.dsize.map fun ds => Place.distance (distWidth s.len2Short m.length ds)
    | .flushing => none
    | .done => none
    | .failed => none
  else none

/-- The stream bit the item at a place starts at: stream bytes 0 and 1 (R61), `IPOS` (R24), or the working position of the
match being decoded (R120). -/
def State.itemStart (s : State) (p : Place) : Nat :=
  match p with
  | .hdr0 => 0
  | .hdr1 => 8
  | .symbol _ => s.ipos
  | .distance _ =>
    match s.pending with
    | none => s.ipos
    | some m => m.pos

/-- The bits available to the decoder at a place. -/
def State.fetchBits (s : State) (p : Place) : Bits := s.bitsFrom Config.fetchSpan (s.itemStart p)

/-- Decode at a place with the engine's own tables. -/
def State.fetch (s : State) (p : Place) : Decoded := decode s.tables p (s.fetchBits p)

/-! ## An item placed from outside -/

/-- The engine inside a `feed` whose stream is the given bytes. -/
def State.withStream (s : State) (bytes : List Byte) : State :=
  { s with
    kind := some .explode
    activity := .feed
    flags := { s.flags with eosSeen := false, streamEnded := false }
    err := none
    pending := none
    input := { mem := Memory.ofBytes 0 bytes, base := 0, total := bytes.length } }

/-- As `withStream`, with the header read: `IPOS` at the first symbol (R208). -/
def State.withSymbols (s : State) (ct : CType) (ds : DSize) (bits : Bits) : State :=
  { s.withStream ([ctypeCode ct, dsizeCode ds] ++ packBits bits) with
    phase := .streaming
    hdr := { ctype := some ct, dsize := some ds }
    tables := explodeTables ct
    ipos := 16 }

/-- As `withSymbols`, with the LEN part of a match read and the given bits standing where its DIST part is due. -/
def State.withDistance (s : State) (ds : DSize) (len : Nat) (lenItem : Item) (bits : Bits) : State :=
  { s.withSymbols .binary ds (encodeItem lenItem ++ bits) with
    pending := some { length := len, pos := 16 + itemBits lenItem } }

/-- The engine with the given bits standing at the given place of its stream, as the next item (log 9). -/
def State.placed (s : State) (p : Place) (bits : Bits) : State :=
  match p with
  | .hdr0 =>
    { s.withStream (packBits bits) with phase := .awaitingHeader, hdr := { ctype := none, dsize := none }, ipos := 0 }
  | .hdr1 =>
    { s.withStream (ctypeCode .binary :: packBits bits) with
      phase := .awaitingHeader
      hdr := { ctype := some .binary, dsize := none }
      ipos := 0 }
  | .symbol ct => s.withSymbols ct .small bits
  | .distance .two => { s.withDistance .small 2 (.len 0 0) bits with len2Short := true }
  | .distance .four => s.withDistance .small 3 (.len 1 0) bits
  | .distance .five => s.withDistance .medium 3 (.len 1 0) bits
  | .distance .six => s.withDistance .large 3 (.len 1 0) bits

/-- A word of the opcode table stored where the next step fetches, in a place where it is the instruction
`decodeTableWord` reads. -/
def State.placedWord (s : State) (nbits w : Nat) : State :=
  match decodeTableWord nbits w with
  | none => s
  | some i => s.placed (itemPlace i.item) (wordBits nbits w)

end Sys2Proof.Machine
end

