-- ==== Sys2Proof/Machine/Header.lean ====
section
/-! DEFINITION. The header codec (44_header_codec.md): the meanings of the header items, and `readHeader` and `writeHeader` on
byte sequences. -/

namespace Sys2Proof.Machine

/-- Header byte 0 accepted: `HDR.CTYPE <- bytes[0]` (R205). -/
def acceptHdr0 (ct : CType) (s : State) : Result :=
  if s.place = some .hdr0 then .next { s with hdr := { s.hdr with ctype := some ct } }
  else .refused .itemOutOfPlace

/-- Header byte 1 accepted: `HDR.DSIZE <- bytes[1]` (R205), and what a successful parse does (R208): the tables are built,
`IPOS <- 16`, `PHASE <- Streaming`. -/
def acceptHdr1 (ds : DSize) (s : State) : Result :=
  match s.place, s.hdr.ctype with
  | some .hdr1, some ct =>
    .next { s with
      hdr := { s.hdr with dsize := some ds }
      tables := explodeTables ct
      ipos := 16
      phase := .streaming }
  | _, _ => .refused .itemOutOfPlace

/-- HDR0.BINARY (R91, R205). -/
def execHdr0Binary (s : State) : Result := acceptHdr0 .binary s

/-- HDR0.ASCII (R91, R205). -/
def execHdr0Ascii (s : State) : Result := acceptHdr0 .ascii s

/-- HDR1.SMALL (R92, R205, R208). -/
def execHdr1Small (s : State) : Result := acceptHdr1 .small s

/-- HDR1.MEDIUM (R92, R205, R208). -/
def execHdr1Medium (s : State) : Result := acceptHdr1 .medium s

/-- HDR1.LARGE (R92, R205, R208). -/
def execHdr1Large (s : State) : Result := acceptHdr1 .large s

/-- `readHeader(bytes)` on a whole byte sequence: length first, then byte 0, then byte 1 (R205, R206). The engine reads the
same two bytes as the items HDR0 and HDR1. -/
def readHeader (bytes : List Byte) : Except ErrorKind (CType × DSize) :=
  if bytes.length < Config.hdrMinAvail then .error .invalidData
  else
    match ctypeOf (bytes.getD 0 0) with
    | none => .error .invalidCompressionType
    | some ct =>
      match dsizeOf (bytes.getD 1 0) with
      | none => .error .invalidDictionarySize
      | some ds => .ok (ct, ds)

/-- The bytes `writeHeader` emits (R209). -/
def headerBytes (ct : CType) (ds : DSize) : List Byte := [ctypeCode ct, dsizeCode ds]

/-- `writeHeader()`: the two bytes go straight to `OUT` (R209). -/
def writeHeader (ct : CType) (ds : DSize) (s : State) : State := (s.outAppend (ctypeCode ct)).outAppend (dsizeCode ds)

end Sys2Proof.Machine
end

