-- ==== Sys2Proof/Machine/Literal.lean ====
section
/-! DEFINITION. The meanings of the literals: LIT of a Binary stream (R224) and the 256 rows of LIT of an Ascii stream
(R225). -/

namespace Sys2Proof.Machine

/-- A literal of `size` bits executed in a stream of type `ct`: the byte is appended to the window and to output, `IPOS`
advances by the item's size (R224, R225). -/
def literal (ct : CType) (size : Nat) (b : Byte) (s : State) : Result :=
  if s.place = some (.symbol ct) then .next { s.emitByte b with ipos := s.ipos + size }
  else .refused .itemOutOfPlace

/-- LIT.B (R94, R224): 9 bits. -/
def execLitB (b : Byte) (s : State) : Result := literal .binary 9 b s

/-- LIT of an Ascii stream: `1 + ChBitsAsc[b]` bits (R95, R225). -/
def asciiLiteral (b : Byte) (s : State) : Result := literal .ascii (1 + romAt chBitsAsc b.toNat) b s

/-! LIT.A.00 to LIT.A.FF (R95, R225). -/

def execLitA00 (s : State) : Result := asciiLiteral 0x00 s
def execLitA01 (s : State) : Result := asciiLiteral 0x01 s
def execLitA02 (s : State) : Result := asciiLiteral 0x02 s
def execLitA03 (s : State) : Result := asciiLiteral 0x03 s
def execLitA04 (s : State) : Result := asciiLiteral 0x04 s
def execLitA05 (s : State) : Result := asciiLiteral 0x05 s
def execLitA06 (s : State) : Result := asciiLiteral 0x06 s
def execLitA07 (s : State) : Result := asciiLiteral 0x07 s
def execLitA08 (s : State) : Result := asciiLiteral 0x08 s
def execLitA09 (s : State) : Result := asciiLiteral 0x09 s
def execLitA0A (s : State) : Result := asciiLiteral 0x0A s
def execLitA0B (s : State) : Result := asciiLiteral 0x0B s
def execLitA0C (s : State) : Result := asciiLiteral 0x0C s
def execLitA0D (s : State) : Result := asciiLiteral 0x0D s
def execLitA0E (s : State) : Result := asciiLiteral 0x0E s
def execLitA0F (s : State) : Result := asciiLiteral 0x0F s
def execLitA10 (s : State) : Result := asciiLiteral 0x10 s
def execLitA11 (s : State) : Result := asciiLiteral 0x11 s
def execLitA12 (s : State) : Result := asciiLiteral 0x12 s
def execLitA13 (s : State) : Result := asciiLiteral 0x13 s
def execLitA14 (s : State) : Result := asciiLiteral 0x14 s
def execLitA15 (s : State) : Result := asciiLiteral 0x15 s
def execLitA16 (s : State) : Result := asciiLiteral 0x16 s
def execLitA17 (s : State) : Result := asciiLiteral 0x17 s
def execLitA18 (s : State) : Result := asciiLiteral 0x18 s
def execLitA19 (s : State) : Result := asciiLiteral 0x19 s
def execLitA1A (s : State) : Result := asciiLiteral 0x1A s
def execLitA1B (s : State) : Result := asciiLiteral 0x1B s
def execLitA1C (s : State) : Result := asciiLiteral 0x1C s
def execLitA1D (s : State) : Result := asciiLiteral 0x1D s
def execLitA1E (s : State) : Result := asciiLiteral 0x1E s
def execLitA1F (s : State) : Result := asciiLiteral 0x1F s
def execLitA20 (s : State) : Result := asciiLiteral 0x20 s
def execLitA21 (s : State) : Result := asciiLiteral 0x21 s
def execLitA22 (s : State) : Result := asciiLiteral 0x22 s
def execLitA23 (s : State) : Result := asciiLiteral 0x23 s
def execLitA24 (s : State) : Result := asciiLiteral 0x24 s
def execLitA25 (s : State) : Result := asciiLiteral 0x25 s
def execLitA26 (s : State) : Result := asciiLiteral 0x26 s
def execLitA27 (s : State) : Result := asciiLiteral 0x27 s
def execLitA28 (s : State) : Result := asciiLiteral 0x28 s
def execLitA29 (s : State) : Result := asciiLiteral 0x29 s
def execLitA2A (s : State) : Result := asciiLiteral 0x2A s
def execLitA2B (s : State) : Result := asciiLiteral 0x2B s
def execLitA2C (s : State) : Result := asciiLiteral 0x2C s
def execLitA2D (s : State) : Result := asciiLiteral 0x2D s
def execLitA2E (s : State) : Result := asciiLiteral 0x2E s
def execLitA2F (s : State) : Result := asciiLiteral 0x2F s
def execLitA30 (s : State) : Result := asciiLiteral 0x30 s
def execLitA31 (s : State) : Result := asciiLiteral 0x31 s
def execLitA32 (s : State) : Result := asciiLiteral 0x32 s
def execLitA33 (s : State) : Result := asciiLiteral 0x33 s
def execLitA34 (s : State) : Result := asciiLiteral 0x34 s
def execLitA35 (s : State) : Result := asciiLiteral 0x35 s
def execLitA36 (s : State) : Result := asciiLiteral 0x36 s
def execLitA37 (s : State) : Result := asciiLiteral 0x37 s
def execLitA38 (s : State) : Result := asciiLiteral 0x38 s
def execLitA39 (s : State) : Result := asciiLiteral 0x39 s
def execLitA3A (s : State) : Result := asciiLiteral 0x3A s
def execLitA3B (s : State) : Result := asciiLiteral 0x3B s
def execLitA3C (s : State) : Result := asciiLiteral 0x3C s
def execLitA3D (s : State) : Result := asciiLiteral 0x3D s
def execLitA3E (s : State) : Result := asciiLiteral 0x3E s
def execLitA3F (s : State) : Result := asciiLiteral 0x3F s
def execLitA40 (s : State) : Result := asciiLiteral 0x40 s
def execLitA41 (s : State) : Result := asciiLiteral 0x41 s
def execLitA42 (s : State) : Result := asciiLiteral 0x42 s
def execLitA43 (s : State) : Result := asciiLiteral 0x43 s
def execLitA44 (s : State) : Result := asciiLiteral 0x44 s
def execLitA45 (s : State) : Result := asciiLiteral 0x45 s
def execLitA46 (s : State) : Result := asciiLiteral 0x46 s
def execLitA47 (s : State) : Result := asciiLiteral 0x47 s
def execLitA48 (s : State) : Result := asciiLiteral 0x48 s
def execLitA49 (s : State) : Result := asciiLiteral 0x49 s
def execLitA4A (s : State) : Result := asciiLiteral 0x4A s
def execLitA4B (s : State) : Result := asciiLiteral 0x4B s
def execLitA4C (s : State) : Result := asciiLiteral 0x4C s
def execLitA4D (s : State) : Result := asciiLiteral 0x4D s
def execLitA4E (s : State) : Result := asciiLiteral 0x4E s
def execLitA4F (s : State) : Result := asciiLiteral 0x4F s
def execLitA50 (s : State) : Result := asciiLiteral 0x50 s
def execLitA51 (s : State) : Result := asciiLiteral 0x51 s
def execLitA52 (s : State) : Result := asciiLiteral 0x52 s
def execLitA53 (s : State) : Result := asciiLiteral 0x53 s
def execLitA54 (s : State) : Result := asciiLiteral 0x54 s
def execLitA55 (s : State) : Result := asciiLiteral 0x55 s
def execLitA56 (s : State) : Result := asciiLiteral 0x56 s
def execLitA57 (s : State) : Result := asciiLiteral 0x57 s
def execLitA58 (s : State) : Result := asciiLiteral 0x58 s
def execLitA59 (s : State) : Result := asciiLiteral 0x59 s
def execLitA5A (s : State) : Result := asciiLiteral 0x5A s
def execLitA5B (s : State) : Result := asciiLiteral 0x5B s
def execLitA5C (s : State) : Result := asciiLiteral 0x5C s
def execLitA5D (s : State) : Result := asciiLiteral 0x5D s
def execLitA5E (s : State) : Result := asciiLiteral 0x5E s
def execLitA5F (s : State) : Result := asciiLiteral 0x5F s
def execLitA60 (s : State) : Result := asciiLiteral 0x60 s
def execLitA61 (s : State) : Result := asciiLiteral 0x61 s
def execLitA62 (s : State) : Result := asciiLiteral 0x62 s
def execLitA63 (s : State) : Result := asciiLiteral 0x63 s
def execLitA64 (s : State) : Result := asciiLiteral 0x64 s
def execLitA65 (s : State) : Result := asciiLiteral 0x65 s
def execLitA66 (s : State) : Result := asciiLiteral 0x66 s
def execLitA67 (s : State) : Result := asciiLiteral 0x67 s
def execLitA68 (s : State) : Result := asciiLiteral 0x68 s
def execLitA69 (s : State) : Result := asciiLiteral 0x69 s
def execLitA6A (s : State) : Result := asciiLiteral 0x6A s
def execLitA6B (s : State) : Result := asciiLiteral 0x6B s
def execLitA6C (s : State) : Result := asciiLiteral 0x6C s
def execLitA6D (s : State) : Result := asciiLiteral 0x6D s
def execLitA6E (s : State) : Result := asciiLiteral 0x6E s
def execLitA6F (s : State) : Result := asciiLiteral 0x6F s
def execLitA70 (s : State) : Result := asciiLiteral 0x70 s
def execLitA71 (s : State) : Result := asciiLiteral 0x71 s
def execLitA72 (s : State) : Result := asciiLiteral 0x72 s
def execLitA73 (s : State) : Result := asciiLiteral 0x73 s
def execLitA74 (s : State) : Result := asciiLiteral 0x74 s
def execLitA75 (s : State) : Result := asciiLiteral 0x75 s
def execLitA76 (s : State) : Result := asciiLiteral 0x76 s
def execLitA77 (s : State) : Result := asciiLiteral 0x77 s
def execLitA78 (s : State) : Result := asciiLiteral 0x78 s
def execLitA79 (s : State) : Result := asciiLiteral 0x79 s
def execLitA7A (s : State) : Result := asciiLiteral 0x7A s
def execLitA7B (s : State) : Result := asciiLiteral 0x7B s
def execLitA7C (s : State) : Result := asciiLiteral 0x7C s
def execLitA7D (s : State) : Result := asciiLiteral 0x7D s
def execLitA7E (s : State) : Result := asciiLiteral 0x7E s
def execLitA7F (s : State) : Result := asciiLiteral 0x7F s
def execLitA80 (s : State) : Result := asciiLiteral 0x80 s
def execLitA81 (s : State) : Result := asciiLiteral 0x81 s
def execLitA82 (s : State) : Result := asciiLiteral 0x82 s
def execLitA83 (s : State) : Result := asciiLiteral 0x83 s
def execLitA84 (s : State) : Result := asciiLiteral 0x84 s
def execLitA85 (s : State) : Result := asciiLiteral 0x85 s
def execLitA86 (s : State) : Result := asciiLiteral 0x86 s
def execLitA87 (s : State) : Result := asciiLiteral 0x87 s
def execLitA88 (s : State) : Result := asciiLiteral 0x88 s
def execLitA89 (s : State) : Result := asciiLiteral 0x89 s
def execLitA8A (s : State) : Result := asciiLiteral 0x8A s
def execLitA8B (s : State) : Result := asciiLiteral 0x8B s
def execLitA8C (s : State) : Result := asciiLiteral 0x8C s
def execLitA8D (s : State) : Result := asciiLiteral 0x8D s
def execLitA8E (s : State) : Result := asciiLiteral 0x8E s
def execLitA8F (s : State) : Result := asciiLiteral 0x8F s
def execLitA90 (s : State) : Result := asciiLiteral 0x90 s
def execLitA91 (s : State) : Result := asciiLiteral 0x91 s
def execLitA92 (s : State) : Result := asciiLiteral 0x92 s
def execLitA93 (s : State) : Result := asciiLiteral 0x93 s
def execLitA94 (s : State) : Result := asciiLiteral 0x94 s
def execLitA95 (s : State) : Result := asciiLiteral 0x95 s
def execLitA96 (s : State) : Result := asciiLiteral 0x96 s
def execLitA97 (s : State) : Result := asciiLiteral 0x97 s
def execLitA98 (s : State) : Result := asciiLiteral 0x98 s
def execLitA99 (s : State) : Result := asciiLiteral 0x99 s
def execLitA9A (s : State) : Result := asciiLiteral 0x9A s
def execLitA9B (s : State) : Result := asciiLiteral 0x9B s
def execLitA9C (s : State) : Result := asciiLiteral 0x9C s
def execLitA9D (s : State) : Result := asciiLiteral 0x9D s
def execLitA9E (s : State) : Result := asciiLiteral 0x9E s
def execLitA9F (s : State) : Result := asciiLiteral 0x9F s
def execLitAA0 (s : State) : Result := asciiLiteral 0xA0 s
def execLitAA1 (s : State) : Result := asciiLiteral 0xA1 s
def execLitAA2 (s : State) : Result := asciiLiteral 0xA2 s
def execLitAA3 (s : State) : Result := asciiLiteral 0xA3 s
def execLitAA4 (s : State) : Result := asciiLiteral 0xA4 s
def execLitAA5 (s : State) : Result := asciiLiteral 0xA5 s
def execLitAA6 (s : State) : Result := asciiLiteral 0xA6 s
def execLitAA7 (s : State) : Result := asciiLiteral 0xA7 s
def execLitAA8 (s : State) : Result := asciiLiteral 0xA8 s
def execLitAA9 (s : State) : Result := asciiLiteral 0xA9 s
def execLitAAA (s : State) : Result := asciiLiteral 0xAA s
def execLitAAB (s : State) : Result := asciiLiteral 0xAB s
def execLitAAC (s : State) : Result := asciiLiteral 0xAC s
def execLitAAD (s : State) : Result := asciiLiteral 0xAD s
def execLitAAE (s : State) : Result := asciiLiteral 0xAE s
def execLitAAF (s : State) : Result := asciiLiteral 0xAF s
def execLitAB0 (s : State) : Result := asciiLiteral 0xB0 s
def execLitAB1 (s : State) : Result := asciiLiteral 0xB1 s
def execLitAB2 (s : State) : Result := asciiLiteral 0xB2 s
def execLitAB3 (s : State) : Result := asciiLiteral 0xB3 s
def execLitAB4 (s : State) : Result := asciiLiteral 0xB4 s
def execLitAB5 (s : State) : Result := asciiLiteral 0xB5 s
def execLitAB6 (s : State) : Result := asciiLiteral 0xB6 s
def execLitAB7 (s : State) : Result := asciiLiteral 0xB7 s
def execLitAB8 (s : State) : Result := asciiLiteral 0xB8 s
def execLitAB9 (s : State) : Result := asciiLiteral 0xB9 s
def execLitABA (s : State) : Result := asciiLiteral 0xBA s
def execLitABB (s : State) : Result := asciiLiteral 0xBB s
def execLitABC (s : State) : Result := asciiLiteral 0xBC s
def execLitABD (s : State) : Result := asciiLiteral 0xBD s
def execLitABE (s : State) : Result := asciiLiteral 0xBE s
def execLitABF (s : State) : Result := asciiLiteral 0xBF s
def execLitAC0 (s : State) : Result := asciiLiteral 0xC0 s
def execLitAC1 (s : State) : Result := asciiLiteral 0xC1 s
def execLitAC2 (s : State) : Result := asciiLiteral 0xC2 s
def execLitAC3 (s : State) : Result := asciiLiteral 0xC3 s
def execLitAC4 (s : State) : Result := asciiLiteral 0xC4 s
def execLitAC5 (s : State) : Result := asciiLiteral 0xC5 s
def execLitAC6 (s : State) : Result := asciiLiteral 0xC6 s
def execLitAC7 (s : State) : Result := asciiLiteral 0xC7 s
def execLitAC8 (s : State) : Result := asciiLiteral 0xC8 s
def execLitAC9 (s : State) : Result := asciiLiteral 0xC9 s
def execLitACA (s : State) : Result := asciiLiteral 0xCA s
def execLitACB (s : State) : Result := asciiLiteral 0xCB s
def execLitACC (s : State) : Result := asciiLiteral 0xCC s
def execLitACD (s : State) : Result := asciiLiteral 0xCD s
def execLitACE (s : State) : Result := asciiLiteral 0xCE s
def execLitACF (s : State) : Result := asciiLiteral 0xCF s
def execLitAD0 (s : State) : Result := asciiLiteral 0xD0 s
def execLitAD1 (s : State) : Result := asciiLiteral 0xD1 s
def execLitAD2 (s : State) : Result := asciiLiteral 0xD2 s
def execLitAD3 (s : State) : Result := asciiLiteral 0xD3 s
def execLitAD4 (s : State) : Result := asciiLiteral 0xD4 s
def execLitAD5 (s : State) : Result := asciiLiteral 0xD5 s
def execLitAD6 (s : State) : Result := asciiLiteral 0xD6 s
def execLitAD7 (s : State) : Result := asciiLiteral 0xD7 s
def execLitAD8 (s : State) : Result := asciiLiteral 0xD8 s
def execLitAD9 (s : State) : Result := asciiLiteral 0xD9 s
def execLitADA (s : State) : Result := asciiLiteral 0xDA s
def execLitADB (s : State) : Result := asciiLiteral 0xDB s
def execLitADC (s : State) : Result := asciiLiteral 0xDC s
def execLitADD (s : State) : Result := asciiLiteral 0xDD s
def execLitADE (s : State) : Result := asciiLiteral 0xDE s
def execLitADF (s : State) : Result := asciiLiteral 0xDF s
def execLitAE0 (s : State) : Result := asciiLiteral 0xE0 s
def execLitAE1 (s : State) : Result := asciiLiteral 0xE1 s
def execLitAE2 (s : State) : Result := asciiLiteral 0xE2 s
def execLitAE3 (s : State) : Result := asciiLiteral 0xE3 s
def execLitAE4 (s : State) : Result := asciiLiteral 0xE4 s
def execLitAE5 (s : State) : Result := asciiLiteral 0xE5 s
def execLitAE6 (s : State) : Result := asciiLiteral 0xE6 s
def execLitAE7 (s : State) : Result := asciiLiteral 0xE7 s
def execLitAE8 (s : State) : Result := asciiLiteral 0xE8 s
def execLitAE9 (s : State) : Result := asciiLiteral 0xE9 s
def execLitAEA (s : State) : Result := asciiLiteral 0xEA s
def execLitAEB (s : State) : Result := asciiLiteral 0xEB s
def execLitAEC (s : State) : Result := asciiLiteral 0xEC s
def execLitAED (s : State) : Result := asciiLiteral 0xED s
def execLitAEE (s : State) : Result := asciiLiteral 0xEE s
def execLitAEF (s : State) : Result := asciiLiteral 0xEF s
def execLitAF0 (s : State) : Result := asciiLiteral 0xF0 s
def execLitAF1 (s : State) : Result := asciiLiteral 0xF1 s
def execLitAF2 (s : State) : Result := asciiLiteral 0xF2 s
def execLitAF3 (s : State) : Result := asciiLiteral 0xF3 s
def execLitAF4 (s : State) : Result := asciiLiteral 0xF4 s
def execLitAF5 (s : State) : Result := asciiLiteral 0xF5 s
def execLitAF6 (s : State) : Result := asciiLiteral 0xF6 s
def execLitAF7 (s : State) : Result := asciiLiteral 0xF7 s
def execLitAF8 (s : State) : Result := asciiLiteral 0xF8 s
def execLitAF9 (s : State) : Result := asciiLiteral 0xF9 s
def execLitAFA (s : State) : Result := asciiLiteral 0xFA s
def execLitAFB (s : State) : Result := asciiLiteral 0xFB s
def execLitAFC (s : State) : Result := asciiLiteral 0xFC s
def execLitAFD (s : State) : Result := asciiLiteral 0xFD s
def execLitAFE (s : State) : Result := asciiLiteral 0xFE s
def execLitAFF (s : State) : Result := asciiLiteral 0xFF s

end Sys2Proof.Machine
end

