-- ==== Sys2Proof/Machine/Match.lean ====
section
/-! DEFINITION. The meanings of the match items: LEN, DIST (together MATCH, R99, R226), and EOS (R227). A MATCH is executed
when its DIST part is: the LEN part only advances the working copy of the decode (R223, R228; log 3). -/

namespace Sys2Proof.Machine

/-- The engine is at the first bit of a symbol, in a stream of either type. -/
def State.atSymbol (s : State) : Bool :=
  match s.place with
  | some (.symbol _) => true
  | _ => false

/-- The LEN part: `L` and the working position after it are kept for the DIST part (R96, R154). `IPOS` is unchanged: it is
written only when the whole symbol has been decoded (R24). -/
def lengthPart (bucket extra : Nat) (s : State) : Result :=
  if s.atSymbol = true then
    .next { s with
      pending := some { length := matchLength bucket extra, pos := s.ipos + itemBits (.len bucket extra) } }
  else .refused .itemOutOfPlace

/-- EOS: `EOS_SEEN <- 1`, `NEEDS_MORE <- 0`, `IPOS <- IPOS + 16` (R227). -/
def endOfStream (s : State) : Result :=
  if s.atSymbol = true then .next { (s.setEosSeen).setNeedsMore false with ipos := s.ipos + 16 }
  else .refused .itemOutOfPlace

/-- The DIST part completes the match: `copyMatch(L, OFF)`, `IPOS` at the bit after it (R226). `copyMatch` reads neither
`IPOS` nor the working copy, so they are written first. -/
def distancePart (index : Nat) (low : DistLow) (s : State) : Result :=
  match s.place, s.pending with
  | some (.distance w), some m =>
    if lowWidth low = w then
      copyMatch m.length (matchOffset index low)
        { s with ipos := m.pos + itemBits (.dist index low), pending := none }
    else .refused .itemOutOfPlace
  | _, _ => .refused .itemOutOfPlace

/-! LEN.0 to LEN.15 (R96, R226). -/

def execLen0 (s : State) : Result := lengthPart 0 0 s
def execLen1 (s : State) : Result := lengthPart 1 0 s
def execLen2 (s : State) : Result := lengthPart 2 0 s
def execLen3 (s : State) : Result := lengthPart 3 0 s
def execLen4 (s : State) : Result := lengthPart 4 0 s
def execLen5 (s : State) : Result := lengthPart 5 0 s
def execLen6 (s : State) : Result := lengthPart 6 0 s
def execLen7 (s : State) : Result := lengthPart 7 0 s
def execLen8 (extra : BitVec 1) (s : State) : Result := lengthPart 8 extra.toNat s
def execLen9 (extra : BitVec 2) (s : State) : Result := lengthPart 9 extra.toNat s
def execLen10 (extra : BitVec 3) (s : State) : Result := lengthPart 10 extra.toNat s
def execLen11 (extra : BitVec 4) (s : State) : Result := lengthPart 11 extra.toNat s
def execLen12 (extra : BitVec 5) (s : State) : Result := lengthPart 12 extra.toNat s
def execLen13 (extra : BitVec 6) (s : State) : Result := lengthPart 13 extra.toNat s
def execLen14 (extra : BitVec 7) (s : State) : Result := lengthPart 14 extra.toNat s

/-- LEN.15: with all eight extra bits 1 the bits are the EOS item, which takes precedence (R97, R106). -/
def execLen15 (extra : BitVec 8) (s : State) : Result :=
  if extra = 0xFF then endOfStream s else lengthPart 15 extra.toNat s

/-- EOS (R97, R227). -/
def execEos (s : State) : Result := endOfStream s

/-! DIST.0 to DIST.63 (R98, R226). -/

def execDist0 (low : DistLow) (s : State) : Result := distancePart 0 low s
def execDist1 (low : DistLow) (s : State) : Result := distancePart 1 low s
def execDist2 (low : DistLow) (s : State) : Result := distancePart 2 low s
def execDist3 (low : DistLow) (s : State) : Result := distancePart 3 low s
def execDist4 (low : DistLow) (s : State) : Result := distancePart 4 low s
def execDist5 (low : DistLow) (s : State) : Result := distancePart 5 low s
def execDist6 (low : DistLow) (s : State) : Result := distancePart 6 low s
def execDist7 (low : DistLow) (s : State) : Result := distancePart 7 low s
def execDist8 (low : DistLow) (s : State) : Result := distancePart 8 low s
def execDist9 (low : DistLow) (s : State) : Result := distancePart 9 low s
def execDist10 (low : DistLow) (s : State) : Result := distancePart 10 low s
def execDist11 (low : DistLow) (s : State) : Result := distancePart 11 low s
def execDist12 (low : DistLow) (s : State) : Result := distancePart 12 low s
def execDist13 (low : DistLow) (s : State) : Result := distancePart 13 low s
def execDist14 (low : DistLow) (s : State) : Result := distancePart 14 low s
def execDist15 (low : DistLow) (s : State) : Result := distancePart 15 low s
def execDist16 (low : DistLow) (s : State) : Result := distancePart 16 low s
def execDist17 (low : DistLow) (s : State) : Result := distancePart 17 low s
def execDist18 (low : DistLow) (s : State) : Result := distancePart 18 low s
def execDist19 (low : DistLow) (s : State) : Result := distancePart 19 low s
def execDist20 (low : DistLow) (s : State) : Result := distancePart 20 low s
def execDist21 (low : DistLow) (s : State) : Result := distancePart 21 low s
def execDist22 (low : DistLow) (s : State) : Result := distancePart 22 low s
def execDist23 (low : DistLow) (s : State) : Result := distancePart 23 low s
def execDist24 (low : DistLow) (s : State) : Result := distancePart 24 low s
def execDist25 (low : DistLow) (s : State) : Result := distancePart 25 low s
def execDist26 (low : DistLow) (s : State) : Result := distancePart 26 low s
def execDist27 (low : DistLow) (s : State) : Result := distancePart 27 low s
def execDist28 (low : DistLow) (s : State) : Result := distancePart 28 low s
def execDist29 (low : DistLow) (s : State) : Result := distancePart 29 low s
def execDist30 (low : DistLow) (s : State) : Result := distancePart 30 low s
def execDist31 (low : DistLow) (s : State) : Result := distancePart 31 low s
def execDist32 (low : DistLow) (s : State) : Result := distancePart 32 low s
def execDist33 (low : DistLow) (s : State) : Result := distancePart 33 low s
def execDist34 (low : DistLow) (s : State) : Result := distancePart 34 low s
def execDist35 (low : DistLow) (s : State) : Result := distancePart 35 low s
def execDist36 (low : DistLow) (s : State) : Result := distancePart 36 low s
def execDist37 (low : DistLow) (s : State) : Result := distancePart 37 low s
def execDist38 (low : DistLow) (s : State) : Result := distancePart 38 low s
def execDist39 (low : DistLow) (s : State) : Result := distancePart 39 low s
def execDist40 (low : DistLow) (s : State) : Result := distancePart 40 low s
def execDist41 (low : DistLow) (s : State) : Result := distancePart 41 low s
def execDist42 (low : DistLow) (s : State) : Result := distancePart 42 low s
def execDist43 (low : DistLow) (s : State) : Result := distancePart 43 low s
def execDist44 (low : DistLow) (s : State) : Result := distancePart 44 low s
def execDist45 (low : DistLow) (s : State) : Result := distancePart 45 low s
def execDist46 (low : DistLow) (s : State) : Result := distancePart 46 low s
def execDist47 (low : DistLow) (s : State) : Result := distancePart 47 low s
def execDist48 (low : DistLow) (s : State) : Result := distancePart 48 low s
def execDist49 (low : DistLow) (s : State) : Result := distancePart 49 low s
def execDist50 (low : DistLow) (s : State) : Result := distancePart 50 low s
def execDist51 (low : DistLow) (s : State) : Result := distancePart 51 low s
def execDist52 (low : DistLow) (s : State) : Result := distancePart 52 low s
def execDist53 (low : DistLow) (s : State) : Result := distancePart 53 low s
def execDist54 (low : DistLow) (s : State) : Result := distancePart 54 low s
def execDist55 (low : DistLow) (s : State) : Result := distancePart 55 low s
def execDist56 (low : DistLow) (s : State) : Result := distancePart 56 low s
def execDist57 (low : DistLow) (s : State) : Result := distancePart 57 low s
def execDist58 (low : DistLow) (s : State) : Result := distancePart 58 low s
def execDist59 (low : DistLow) (s : State) : Result := distancePart 59 low s
def execDist60 (low : DistLow) (s : State) : Result := distancePart 60 low s
def execDist61 (low : DistLow) (s : State) : Result := distancePart 61 low s
def execDist62 (low : DistLow) (s : State) : Result := distancePart 62 low s
def execDist63 (low : DistLow) (s : State) : Result := distancePart 63 low s

end Sys2Proof.Machine
end

