-- ==== Sys2Proof/Machine/Implode.lean ====
section
/-! DEFINITION. The IMPLODE engine (46_implode.md): start of stream, the match finder, the decision at one position, emission,
and the end of the stream. -/

namespace Sys2Proof.Machine

/-! ## Start of stream -/

/-- `startImplode()`: header written, `CT` built, `PHASE <- Streaming` (R261). -/
def startImplode (s : State) : Result :=
  match s.hdr.ctype, s.hdr.dsize with
  | some ct, some ds => .next { writeHeader ct ds s with tables := implodeTables ct, phase := .streaming }
  | _, _ => .fault .noValue

/-! ## The match finder -/

/-- `stream_byte(k)` of an IMPLODE engine: `WIN[k]` below `WIN_LEN` (R194), else the lookahead in `IN` (R70). -/
def State.streamByte (s : State) (k : Nat) : Option Byte :=
  if k < s.win.len then s.winRead k else s.input.mem.read k

/-- How many of at most `n` bytes from `a` on equal those from `b` on: the inner loop of `findMatch` (R264). -/
def State.runLength (s : State) : Nat → Nat → Nat → Nat
  | 0, _, _ => 0
  | n + 1, a, b =>
    match s.streamByte a, s.streamByte b with
    | some x, some y => if x = y then s.runLength n (a + 1) (b + 1) + 1 else 0
    | _, _ => 0

/-- The outer loop of `findMatch`: `count` offsets from `off` upwards; only a strictly longer match replaces the best so
far (R264, R265). -/
def State.bestMatch (s : State) (p maxlen : Nat) : Nat → Nat → Nat × Nat → Nat × Nat
  | 0, _, best => best
  | count + 1, off, best =>
    let len := s.runLength maxlen (p - off) p
    s.bestMatch p maxlen count (off + 1) (if best.1 < len then (len, off) else best)

/-- Qualification of the best match: `L ≥ 3`, or `L = 2` and `OFF ≤ 256` (R264, R266). `(0, 0)` is "no match". -/
def qualified (best : Nat × Nat) : Nat × Nat :=
  if 3 ≤ best.1 then best
  else if best.1 = 2 ∧ best.2 ≤ 256 then best
  else (0, 0)

/-- `findMatch(p)` with window reach `reach` (R264). -/
def State.findMatch (s : State) (reach p : Nat) : Nat × Nat :=
  let maxlen := min Config.maxLen (s.input.total - p)
  if maxlen < Config.minLen then (0, 0)
  else qualified (s.bestMatch p maxlen (min reach p) 1 (0, 0))

/-! ## Emission -/

/-- `putBits(CT_LEN[s], CT_CODE[s])`; `none` when the entry has no value. -/
def putSymbol (symbol : Nat) (s : State) : Option State :=
  match s.tables.ct with
  | none => none
  | some ct =>
    match ct[symbol]? with
    | none => none
    | some entry => some (putBits entry.bits.toNat entry.code s)

/-- Append `stream_byte(k)` to the window for `count` positions from `k` on (R194). -/
def consumeBytes : Nat → Nat → State → Option State
  | 0, _, s => some s
  | count + 1, k, s =>
    match s.streamByte k with
    | none => none
    | some b => consumeBytes count (k + 1) (s.winAppend b)

/-- The distance code and low bits of a match (R158). -/
def putDistance (w : DistWidth) (off : Nat) (s : State) : State :=
  let d := off - 1
  let index := d >>> widthBits w
  putBits (widthBits w) (BitVec.ofNat 16 (d % 2 ^ widthBits w))
    (putBits (romAt distBits index) (BitVec.ofNat 16 (romAt distCode index)) s)

/-- `emitLiteral(b)` with `b = stream_byte(IPOS)` (R269). -/
def emitLiteral (s : State) : Result :=
  match s.streamByte s.ipos with
  | none => .fault .absentByte
  | some b =>
    match putSymbol b.toNat s with
    | none => .fault .noValue
    | some t => .next { t.winAppend b with ipos := s.ipos + 1 }

/-- `emitMatch(L, OFF)` (R270). -/
def emitMatch (ds : DSize) (len off : Nat) (s : State) : Result :=
  match putSymbol (lengthSymbol len) s with
  | none => .fault .noValue
  | some t =>
    match consumeBytes len s.ipos (putDistance (distWidth s.len2Short len ds) off t) with
    | none => .fault .absentByte
    | some u => .next { u with ipos := s.ipos + len }

/-- `emitEOS()`: symbol 0x305, `EOS_SEEN <- 1` (R271). -/
def emitEos (s : State) : Option State := (putSymbol Config.eosSym s).map State.setEosSeen

/-! ## The compress loop -/

/-- The loop's condition: a position is decided only with 518 bytes of lookahead, or after `finish` (R262, R263). -/
def State.canDecide (s : State) : Bool :=
  decide (s.ipos < s.input.total)
    && (s.flags.streamEnded || decide (Config.maxLen ≤ s.input.total - s.ipos))

/-- One round of `compressLoop()`: a match if `findMatch` finds one, else a literal (R262). -/
def decidePosition (s : State) : Result :=
  match s.hdr.dsize with
  | none => .fault .noValue
  | some ds =>
    let best := s.findMatch (windowReach ds) s.ipos
    if Config.minLen ≤ best.1 then emitMatch ds best.1 best.2 s else emitLiteral s

/-- The end of `finishImplode()`: EOS, zero padding, `NEEDS_MORE <- 0`, `PHASE <- Done`, and the transaction returns
(R272). -/
def endImplode (s : State) : Result :=
  match emitEos s with
  | none => .fault .noValue
  | some t => .next (((t.flush).setNeedsMore false).setPhase .done).deliver

/-! ## The state machine (R260), one step of it -/

/-- Inside a `feed`. -/
def implodeFeed (s : State) : Result :=
  match s.phase with
  | .awaitingHeader => startImplode s
  | .streaming => if s.canDecide = true then decidePosition s else .next s.stopForInput
  | .flushing => .fault .phaseMismatch
  | .done => .fault .phaseMismatch
  | .failed => .fault .phaseMismatch

/-- Inside a `finish`. -/
def implodeFinish (s : State) : Result :=
  match s.phase with
  | .awaitingHeader => startImplode s
  | .streaming => .next (s.setPhase .flushing)
  | .flushing => if s.canDecide = true then decidePosition s else endImplode s
  | .done => .fault .phaseMismatch
  | .failed => .fault .phaseMismatch

end Sys2Proof.Machine
end

