-- ==== Sys2Proof/Machine/Engine.lean ====
section
/-! DEFINITION. The transactions (47_engine_interface.md): how one begins, one step of the EXPLODE state machine inside it
(45_explode.md), and what the host can observe (R295). -/

namespace Sys2Proof.Machine

/-! ## The beginning of a transaction -/

/-- A chunk appended to `IN`, `NEEDS_MORE <- 0`, and the state machine runs (R293). -/
def State.beginFeed (s : State) (chunk : List Byte) : State :=
  { s.setNeedsMore false with input := s.input.receive chunk, activity := .feed }

/-- `STREAM_ENDED <- 1; NEEDS_MORE <- 0`, and the state machine runs (R294). -/
def State.beginFinish (s : State) : State := { (s.setStreamEnded).setNeedsMore false with activity := .finish }

/-- `feed(engine, chunk)` up to the state machine: a failed instance repeats its error (R297), a finished one refuses (R296),
an empty chunk does nothing (R298); these change no state. -/
def acceptFeed (chunk : List Byte) (s : State) : Result :=
  if s.kind = none then .fault .noInstance
  else if s.phase = .failed then .next (s.reply { producedOutput := [], error := s.err })
  else if s.flags.streamEnded = true then .next (s.reply { producedOutput := [], error := none })
  else if chunk = [] then .next (s.reply { producedOutput := [], error := none })
  else .next (s.beginFeed chunk)

/-- `finish(engine)` up to the state machine (R294, R296, R297). -/
def acceptFinish (s : State) : Result :=
  if s.kind = none then .fault .noInstance
  else if s.phase = .failed then .next (s.reply { producedOutput := [], error := s.err })
  else if s.flags.streamEnded = true then .next (s.reply { producedOutput := [], error := none })
  else .next s.beginFinish

/-- The arguments of `createImplodeEngine`, type checked first (R292). -/
def creationArguments (ct ds : Byte) : Except ErrorKind (CType × DSize) :=
  match ctypeOf ct with
  | none => .error .invalidCompressionType
  | some c =>
    match dsizeOf ds with
    | none => .error .invalidDictionarySize
    | some d => .ok (c, d)

/-- `createExplodeEngine()` (R291). -/
def acceptCreateExplode (s : State) : State :=
  (s.created (some .explode) none none).reply { producedOutput := [], error := none }

/-- `createImplodeEngine(ct, ds)`: with illegal arguments no instance exists afterwards and only the kind is returned (R292,
R313). -/
def acceptCreateImplode (ct ds : Byte) (s : State) : State :=
  match creationArguments ct ds with
  | .error e => (s.created none none none).reply { producedOutput := [], error := some e }
  | .ok (c, d) => (s.created (some .implode) (some c) (some d)).reply { producedOutput := [], error := none }

/-- A transaction taken from the host's queue. Discarding needs no transaction and returns no record (R302). -/
def accept (r : Request) (s : State) : Result :=
  match r with
  | .createExplode => .next (acceptCreateExplode s)
  | .createImplode ct ds => .next (acceptCreateImplode ct ds s)
  | .feed chunk => acceptFeed chunk s
  | .finish => acceptFinish s
  | .discard => .next (s.created none none none)

/-! ## The EXPLODE state machine (R220), one step of it -/

/-- What a decode leads to (R222, R223): an item is executed; `NeedMore` ends the transaction with nothing consumed (R228);
the rest raise (R205, R223). -/
def afterFetch (d : Decoded) (s : State) : Result :=
  match d with
  | .item i _ => exec i s
  | .needMore => .next s.stopForInput
  | .badCompressionType _ => .next (raise .invalidCompressionType s)
  | .badDictionarySize _ => .next (raise .invalidDictionarySize s)
  | .malformedSymbol => .next (raise .malformedSymbol s)
  | .tableNotBuilt => .fault .noValue

/-- Inside a `feed`, with no item due: after EOS the loop ends with `NEEDS_MORE <- 0` (R222, R236); with fewer than 4 bytes of
header input the engine waits (R207, R220). -/
def explodeEndFeed (s : State) : Result :=
  if s.flags.eosSeen = true then .next (s.setNeedsMore false).deliver
  else if s.phase = .awaitingHeader then .next s.stopForInput
  else .fault .phaseMismatch

/-- Inside a `feed`: one item of the stream. -/
def explodeFeed (s : State) : Result :=
  match s.place with
  | some p => afterFetch (s.fetch p) s
  | none => explodeEndFeed s

/-- Inside a `finish`: fewer than 4 bytes in all (R207, R220), or `Flushing` (R230). -/
def explodeFinish (s : State) : Result :=
  match s.phase with
  | .awaitingHeader => .next (raise .invalidData s)
  | .streaming => .next (s.setPhase .flushing)
  | .flushing =>
    if s.flags.eosSeen = true then .next (s.setPhase .done).deliver else .next (raise .truncatedStream s)
  | .done => .fault .phaseMismatch
  | .failed => .fault .phaseMismatch

/-! ## One step -/

/-- Between transactions: the oldest pending one begins; with none pending the instance waits, unchanged (R330). -/
def idleStep (s : State) : Result :=
  match s.requests with
  | [] => .next s
  | r :: rest => accept r { s with requests := rest }

/-- Inside a `feed`. -/
def feedStep (s : State) : Result :=
  match s.kind with
  | none => .fault .noInstance
  | some .explode => explodeFeed s
  | some .implode => implodeFeed s

/-- Inside a `finish`. -/
def finishStep (s : State) : Result :=
  match s.kind with
  | none => .fault .noInstance
  | some .explode => explodeFinish s
  | some .implode => implodeFinish s

/-- One step of the engine, its buffers and counters unbounded. -/
def engineStep (s : State) : Result :=
  match s.activity with
  | .idle => idleStep s
  | .feed => feedStep s
  | .finish => finishStep s

/-- One step of the machine: that of the engine, within the limits of the implementation (R10). -/
def machineStep (s : State) : Result := limited s (engineStep s)

/-! ## What the host observes between transactions (R295) -/

structure Status where
  needsMore : Bool
  phase : Phase
  err : Option ErrorKind
  eosSeen : Bool
  streamEnded : Bool
  header : Option Header
  deriving DecidableEq, Repr

/-- The status values; the header once `PHASE ≠ AwaitingHeader` (R295). -/
def State.status (s : State) : Status where
  needsMore := s.flags.needsMore
  phase := s.phase
  err := s.err
  eosSeen := s.flags.eosSeen
  streamEnded := s.flags.streamEnded
  header := if s.phase = .awaitingHeader then none else some s.hdr

end Sys2Proof.Machine
end

