-- ==== Sys2Proof/Machine/Step.lean ====
section
/-! DEFINITION. The step function, and placing a word of the opcode table where the next step fetches. -/

namespace Sys2Proof.Machine

/-- One step: between transactions the next one begins; inside one, an EXPLODE engine executes one item of its stream, an
IMPLODE engine takes one decision, or the transaction ends (log 2, log 3). -/
def step (s : State) : Host.Outcome State Fault Refusal := machineStep s

/-- The word stored where the next step fetches, so that `step` runs the instruction `decodeTableWord` reads (log 9). -/
def State.withFetchWord (s : State) (nbits w : Nat) : State := s.placedWord nbits w

end Sys2Proof.Machine
end

