-- ==== Sys2Proof/Safety.lean ====
section
/-! DEFINITION. What a good state is: the invariants of R38 and of the state machines (R220, R260), in the terms claims use. -/

namespace Sys2Proof.Machine

/-! ## Byte spaces -/

/-- The space holds a byte at exactly the `count` addresses from `base` on. -/
def Memory.covers (m : Memory) (base count : Nat) : Prop := m.map Prod.fst = List.range' base count

/-- The three byte spaces hold exactly the addresses R60 gives them. -/
structure SpacesOk (s : State) : Prop where
  window : s.win.mem.covers 0 s.win.len
  base_le : s.input.base ≤ s.input.total
  input : s.input.mem.covers s.input.base (s.input.total - s.input.base)
  output : s.output.mem.covers 0 s.output.mem.length

/-! ## Phases and flags -/

/-- What R26 to R28, R38 item 5, R231 and R296 say of `PHASE`, `ERR` and the flags, inside and between transactions. -/
structure ControlOk (s : State) : Prop where
  err_iff : s.err.isSome = true ↔ s.phase = .failed
  no_instance : s.kind = none → s.activity = .idle ∧ s.phase = .awaitingHeader
  idle : s.activity = .idle → s.output.mem = [] ∧ s.pending = none ∧ s.phase ≠ .flushing
  idle_ended : s.activity = .idle → s.phase ≠ .failed → (s.flags.streamEnded = true ↔ s.phase = .done)
  done : s.phase = .done → s.flags.eosSeen = true ∧ s.flags.needsMore = false
  feed : s.activity = .feed →
    (s.phase = .awaitingHeader ∨ s.phase = .streaming) ∧ s.flags.streamEnded = false ∧ s.flags.needsMore = false
  finish : s.activity = .finish →
    (s.phase = .awaitingHeader ∨ s.phase = .streaming ∨ s.phase = .flushing)
      ∧ s.flags.streamEnded = true ∧ s.flags.needsMore = false ∧ s.pending = none

/-! ## An EXPLODE engine that has not failed -/

/-- Before the header is parsed (R221, R39). Header byte 0 alone is read only inside the `feed` that reads both. -/
structure HeaderDue (s : State) : Prop where
  ipos : s.ipos = 0
  base : s.input.base = 0
  dsize : s.hdr.dsize = none
  tables : s.tables = noTables
  pending : s.pending = none
  eos : s.flags.eosSeen = false
  ctype : s.hdr.ctype ≠ none → s.activity = .feed ∧ Config.hdrMinAvail ≤ s.input.total
  few : s.activity ≠ .feed → s.input.total < Config.hdrMinAvail
  nothing : s.output.mem = [] ∧ s.win.len = 0

/-- Once the header is parsed (R24, R29, R208, R38 items 1 and 2). -/
structure HeaderRead (s : State) : Prop where
  header : ∃ ct ds, s.hdr = { ctype := some ct, dsize := some ds } ∧ s.tables = explodeTables ct
  ipos_ge : 16 ≤ s.ipos
  ipos_le : s.ipos ≤ 8 * s.input.total
  base_le : 8 * s.input.base ≤ s.ipos

structure ExplodeOk (s : State) : Prop where
  due : s.phase = .awaitingHeader → HeaderDue s
  read : s.phase ≠ .awaitingHeader → HeaderRead s
  cursor : s.bc = { partialByte := 0, bitsFilled := 0 }
  count : s.output.count = s.win.len
  pending : ∀ m, s.pending = some m →
    s.phase = .streaming ∧ s.activity = .feed ∧ s.flags.eosSeen = false
      ∧ Config.minLen ≤ m.length ∧ m.length ≤ Config.maxLen ∧ s.ipos ≤ m.pos ∧ m.pos ≤ 8 * s.input.total

/-! ## An IMPLODE engine -/

/-- R22, R25, R29, R38, R194, R261, R272. An IMPLODE engine never fails (R260). -/
structure ImplodeOk (s : State) : Prop where
  not_failed : s.phase ≠ .failed
  header : ∃ ct ds, s.hdr = { ctype := some ct, dsize := some ds }
    ∧ (s.phase = .awaitingHeader → s.tables = noTables ∧ s.bc = { partialByte := 0, bitsFilled := 0 } ∧ s.ipos = 0)
    ∧ (s.phase ≠ .awaitingHeader → s.tables = implodeTables ct)
  pending : s.pending = none
  window : s.win.len = s.ipos
  ipos_le : s.ipos ≤ s.input.total
  base_le : s.input.base ≤ s.ipos
  cursor : s.bc.partialByte >>> s.bc.bitsFilled.toNat = 0
  eos : s.flags.eosSeen = true ↔ s.phase = .done
  done : s.phase = .done → s.bc = { partialByte := 0, bitsFilled := 0 } ∧ s.ipos = s.input.total

/-! ## A good state -/

/-- The invariant of the machine. -/
structure Inv (s : State) : Prop where
  spaces : SpacesOk s
  control : ControlOk s
  explode : s.kind = some .explode → s.phase ≠ .failed → ExplodeOk s
  implode : s.kind = some .implode → ImplodeOk s

/-! ## What is due in the stream of an EXPLODE engine -/

/-- A header byte is due: inside a `feed`, with 4 bytes received (R205, R207). Byte 1 is due once byte 0 gave a type. -/
structure HeaderByteDue (first : Option CType) (s : State) : Prop where
  kind : s.kind = some .explode
  activity : s.activity = .feed
  eos : s.flags.eosSeen = false
  phase : s.phase = .awaitingHeader
  enough : Config.hdrMinAvail ≤ s.input.total
  ctype : s.hdr.ctype = first

/-- A symbol of a stream of type `ct` is due: the `Streaming` loop, inside a `feed`, before EOS (R222, R223). -/
structure SymbolDue (ct : CType) (s : State) : Prop where
  kind : s.kind = some .explode
  activity : s.activity = .feed
  eos : s.flags.eosSeen = false
  phase : s.phase = .streaming
  pending : s.pending = none
  ctype : s.hdr.ctype = some ct

/-- The DIST part of a match is due, its LEN part read (R99, R223). -/
structure DistanceDue (m : PendingMatch) (ds : DSize) (s : State) : Prop where
  kind : s.kind = some .explode
  activity : s.activity = .feed
  eos : s.flags.eosSeen = false
  phase : s.phase = .streaming
  pending : s.pending = some m
  dsize : s.hdr.dsize = some ds

/-- The next step neither makes nor discards an instance: inside a transaction, or with a `feed` or `finish` next. -/
def State.keepsInstance (s : State) : Prop :=
  s.activity = .idle → ∀ r rest, s.requests = r :: rest → r = .finish ∨ ∃ chunk, r = .feed chunk

/-- The places an item can stand at: LIT.B in a Binary stream, LIT.A in an Ascii stream, LEN and EOS in either, DIST with
the width of the place (R90, R93 to R98). -/
def canStand : Item → Place → Prop
  | .hdr0 _, p => p = .hdr0
  | .hdr1 _, p => p = .hdr1
  | .litB _, p => p = .symbol .binary
  | .litA _, p => p = .symbol .ascii
  | .len _ _, p => ∃ ct, p = .symbol ct
  | .eos, p => ∃ ct, p = .symbol ct
  | .dist _ low, p => p = .distance (lowWidth low)

/-- The tables of an EXPLODE engine at a place: those of the stream's type, where the place names it (R208). -/
def tablesAt (ct : CType) (p : Place) : Prop := ∀ c, p = .symbol c → c = ct

/-! ## The output stream of an IMPLODE engine -/

/-- The stream bits in `OUT` and in the bit cursor, oldest first (R22, R63). -/
def State.outBits (s : State) : Bits :=
  bytesBits s.output.mem.bytes ++ natBits s.bc.bitsFilled.toNat s.bc.partialByte.toNat

/-! ## Whole streams (R237, R277) -/

/-- `t` comes after `s` in finitely many steps. -/
inductive Reaches : State → State → Prop where
  | here (s : State) : Reaches s s
  | later {s t u : State} : step s = .next t → Reaches t u → Reaches s u

/-- One whole stream, as a host asks for it: creation, the chunks in order, `finish` (R306). -/
def session (create : Request) (chunks : List (List Byte)) : List Request :=
  create :: (chunks.map Request.feed ++ [.finish])

/-- All requests are served, each by one step after another, and `records` are the records returned. -/
structure Served (s : State) (records : List Reply) (t : State) : Prop where
  reaches : Reaches s t
  activity : t.activity = .idle
  requests : t.requests = []
  replies : t.replies = s.replies ++ records

/-- The bytes returned, in transaction order (R229, R273). -/
def outputs (records : List Reply) : List Byte := records.flatMap Reply.producedOutput

/-- The bytes a match appends to the bytes before it (R193). -/
def copied (out : List Byte) (len off : Nat) : List Byte :=
  (List.range len).map fun j => out.getD (out.length - off + j % off) 0

/-- The symbols of a complete stream, decoded with all its bits available (R237 item 2). `out` is what is produced so far;
each round takes at least one bit, so as many rounds as bits are enough. -/
def explodeSymbols (len2Short : Bool) (ct : CType) (ds : DSize) : Nat → Bits → List Byte → Except ErrorKind (List Byte)
  | 0, _, _ => .error .truncatedStream
  | rounds + 1, bits, out =>
    match decode (explodeTables ct) (.symbol ct) bits with
    | .item i rest =>
      match i.item with
      | .litB b => explodeSymbols len2Short ct ds rounds rest (out ++ [b])
      | .litA b => explodeSymbols len2Short ct ds rounds rest (out ++ [b])
      | .eos => .ok out
      | .len bucket extra =>
        match decode (explodeTables ct) (.distance (distWidth len2Short (matchLength bucket extra) ds)) rest with
        | .item j after =>
          match j.item with
          | .dist index low =>
            if out.length < matchOffset index low then .error .malformedSymbol
            else explodeSymbols len2Short ct ds rounds after
              (out ++ copied out (matchLength bucket extra) (matchOffset index low))
          | _ => .error .malformedSymbol
        | _ => .error .truncatedStream
      | _ => .error .malformedSymbol
    | _ => .error .truncatedStream

/-- `explode(S)` (R237). -/
def explodeStream (len2Short : Bool) (bytes : List Byte) : Except ErrorKind (List Byte) :=
  match readHeader bytes with
  | .error e => .error e
  | .ok (ct, ds) =>
    explodeSymbols len2Short ct ds ((bytesBits bytes).length + 1) ((bytesBits bytes).drop 16) []

/-- A state that holds a whole input, for the match finder to look at (R277: "on the whole of `S`"). -/
def wholeInput (bytes : List Byte) : State :=
  { State.reset with input := { mem := Memory.ofBytes 0 bytes, base := 0, total := bytes.length } }

/-- The bits of a CodeTable symbol. -/
def symbolBits (ct : CType) (symbol : Nat) : Bits :=
  match (codeTable ct)[symbol]? with
  | some entry => natBits entry.bits.toNat entry.code.toNat
  | none => []

/-- The bits of a distance (R158). -/
def distanceBits (w : DistWidth) (off : Nat) : Bits :=
  natBits (romAt distBits ((off - 1) >>> widthBits w)) (romAt distCode ((off - 1) >>> widthBits w))
    ++ natBits (widthBits w) ((off - 1) % 2 ^ widthBits w)

/-- The items of a complete input from position `p` on, and EOS (R277); a round advances by at least one byte. -/
def implodeSymbols (len2Short : Bool) (ct : CType) (ds : DSize) (bytes : List Byte) : Nat → Nat → Bits
  | 0, _ => symbolBits ct Config.eosSym
  | rounds + 1, p =>
    if p < bytes.length then
      let best := (wholeInput bytes).findMatch (windowReach ds) p
      if Config.minLen ≤ best.1 then
        symbolBits ct (lengthSymbol best.1) ++ distanceBits (distWidth len2Short best.1 ds) best.2
          ++ implodeSymbols len2Short ct ds bytes rounds (p + best.1)
      else symbolBits ct (bytes.getD p 0).toNat ++ implodeSymbols len2Short ct ds bytes rounds (p + 1)
    else symbolBits ct Config.eosSym

/-- `implode(S, ct, ds)` (R277). -/
def implodeStream (len2Short : Bool) (ct : CType) (ds : DSize) (bytes : List Byte) : List Byte :=
  [ctypeCode ct, dsizeCode ds] ++ packBits (implodeSymbols len2Short ct ds bytes bytes.length 0)

/-! ## A new instance -/

/-- The rows of R39 that both kinds of engine share. -/
structure FreshInstance (s : State) : Prop where
  phase : s.phase = .awaitingHeader
  err : s.err = none
  flags : s.flags = { needsMore := true, streamEnded := false, eosSeen := false }
  cursor : s.bc = { partialByte := 0, bitsFilled := 0 }
  ipos : s.ipos = 0
  input : s.input = { mem := [], base := 0, total := 0 }
  output : s.output = { mem := [], count := 0 }
  window : s.win = { mem := [], len := 0 }
  codeTable : s.tables.ct = none
  asciiTables : s.tables.ascii = none

/-! ## What is asked of the host -/

/-- The one thing a host must do before anything else (R306): have an instance when it asks for a `feed` or `finish`. -/
def State.hostObeys (s : State) : Prop :=
  s.kind = none → ∀ r rest, s.requests = r :: rest → r ≠ .finish ∧ ∀ chunk, r ≠ .feed chunk

end Sys2Proof.Machine
end

