-- ==== Sys2Proof/Certificates/Slice0/Obligations.lean ====
section
/-! DEFINITION. The statements for the provers. Each docstring names the rules it formalises. A result statement gives the next
state as an update of the state before: what the update does not name is unchanged, every byte of memory included. The premise
`s.limits = .unbounded` is the default of R10 for the capacities and counters; what a step does within other limits
`StepRunsDecodedItem` says. -/

open Sys2Proof Sys2Proof.Machine

/-! ## Creation and reset -/

/-- R39, R291, R292: creation, the block's reset, gives every register the value of R39's table. That the machine's own
reset is `createExplodeEngine()` is the model's choice (log 1), and so is that an instance still live is discarded (log 22) and
that the lookup tables have no value yet (log 16). -/
def Obligations.CreatedInstanceHoldsResetValues : Prop :=
  (FreshInstance State.reset ∧ State.reset.kind = some .explode ∧ State.reset.hdr = { ctype := none, dsize := none })
  ∧ (∀ (s : State) (rest : List Request), s.activity = .idle → s.requests = .createExplode :: rest →
      ∃ t, step s = .next t ∧ FreshInstance t ∧ t.kind = some .explode ∧ t.hdr = { ctype := none, dsize := none }
        ∧ t.len2Short = s.len2Short ∧ t.limits = s.limits ∧ t.requests = rest
        ∧ t.replies = s.replies ++ [{ producedOutput := [], error := none }])
  ∧ ∀ (s : State) (rest : List Request) (ct : CType) (ds : DSize), s.activity = .idle →
      s.requests = .createImplode (ctypeCode ct) (dsizeCode ds) :: rest →
      ∃ t, step s = .next t ∧ FreshInstance t ∧ t.kind = some .implode
        ∧ t.hdr = { ctype := some ct, dsize := some ds } ∧ t.tables.lenLut = none ∧ t.tables.distLut = none
        ∧ t.len2Short = s.len2Short ∧ t.limits = s.limits ∧ t.requests = rest
        ∧ t.replies = s.replies ++ [{ producedOutput := [], error := none }]

/-- R292: illegal raw arguments leave no instance; the type is checked first. The model's choices: an instance that was live when
the creation was asked is discarded, also by a creation that fails (log 22; R303 would leave another instance alone), the lookup
tables have no value yet (log 16), and creation keeps the parameters of R10 (logs 5, 7) and the host's queues. -/
def Obligations.IllegalCreationLeavesNoInstance : Prop :=
  ∀ (s : State) (rest : List Request) (ct ds : Byte), s.activity = .idle → s.requests = .createImplode ct ds :: rest →
    (ct ≠ 0 ∧ ct ≠ 1 →
      ∃ t, step s = .next t ∧ t.kind = none ∧ t.len2Short = s.len2Short ∧ t.limits = s.limits ∧ t.requests = rest
        ∧ t.replies = s.replies ++ [{ producedOutput := [], error := some .invalidCompressionType }])
    ∧ (ct = 0 ∨ ct = 1 → ds ≠ 4 ∧ ds ≠ 5 ∧ ds ≠ 6 →
      ∃ t, step s = .next t ∧ t.kind = none ∧ t.len2Short = s.len2Short ∧ t.limits = s.limits ∧ t.requests = rest
        ∧ t.replies = s.replies ++ [{ producedOutput := [], error := some .invalidDictionarySize }])
    ∧ (ct = 0 ∨ ct = 1 → ds = 4 ∨ ds = 5 ∨ ds = 6 → ∃ t c d, step s = .next t ∧ t.kind = some .implode
        ∧ t.hdr = { ctype := some c, dsize := some d } ∧ ctypeCode c = ct ∧ dsizeCode d = ds ∧ FreshInstance t
        ∧ t.tables.lenLut = none ∧ t.tables.distLut = none
        ∧ t.len2Short = s.len2Short ∧ t.limits = s.limits ∧ t.requests = rest
        ∧ t.replies = s.replies ++ [{ producedOutput := [], error := none }])

/-! ## The header codec -/

/-- R206: length first, then byte 0, then byte 1, and the three examples. -/
def Obligations.ReadHeaderChecksInOrder : Prop :=
  (∀ bytes : List Byte,
    (bytes.length < 4 → readHeader bytes = .error .invalidData)
    ∧ (4 ≤ bytes.length → bytes.getD 0 0 ≠ 0 ∧ bytes.getD 0 0 ≠ 1 → readHeader bytes = .error .invalidCompressionType)
    ∧ (4 ≤ bytes.length → bytes.getD 0 0 = 0 ∨ bytes.getD 0 0 = 1 →
        bytes.getD 1 0 ≠ 4 ∧ bytes.getD 1 0 ≠ 5 ∧ bytes.getD 1 0 ≠ 6 → readHeader bytes = .error .invalidDictionarySize))
  ∧ readHeader [0x07, 0x09, 0x00] = .error .invalidData
  ∧ readHeader [0x07, 0x09, 0x00, 0x00] = .error .invalidCompressionType
  ∧ readHeader [0x01, 0x09, 0x00, 0x00] = .error .invalidDictionarySize

/-- R210: the two bytes `writeHeader` emits from `readHeader(bytes)` are the first two of `bytes`. -/
def Obligations.HeaderBytesRoundTrip : Prop :=
  ∀ bytes : List Byte, 4 ≤ bytes.length → bytes.getD 0 0 = 0 ∨ bytes.getD 0 0 = 1 →
    bytes.getD 1 0 = 4 ∨ bytes.getD 1 0 = 5 ∨ bytes.getD 1 0 = 6 →
    ∃ ct ds, readHeader bytes = .ok (ct, ds)
      ∧ ∀ s : State, SpacesOk s → (writeHeader ct ds s).output.mem.bytes = s.output.mem.bytes ++ bytes.take 2

/-- HDR0.BINARY and HDR0.ASCII (R91, R205): `HDR.CTYPE <- bytes[0]`, and nothing else. That the header is read in two steps
is the model's choice (log 3). -/
def Obligations.HeaderByte0Result : Prop :=
  ∀ (i : Instr) (ct : CType) (s : State), i.item = .hdr0 ct → HeaderByteDue none s →
    exec i s = .next { s with hdr := { s.hdr with ctype := some ct } }

/-- HDR1.SMALL, HDR1.MEDIUM and HDR1.LARGE (R92, R205, R208): `HDR.DSIZE` is written, the ASCII tables are built exactly for
an Ascii stream and are what `generateAsciiTables` makes, the length and distance lookup tables are available, `IPOS = 16`,
`PHASE = Streaming`, and nothing else changes. The model's choices: the header is read in two steps (log 3), the lookup tables
are filled here (log 16), and an EXPLODE engine has no CodeTable (`tables.ct := none`, log 17: R30 and R39 leave it to the
implementation, R208 quotes "build CodeTable"). -/
def Obligations.HeaderByte1Result : Prop :=
  ∀ (i : Instr) (ct : CType) (ds : DSize) (s : State), i.item = .hdr1 ds → HeaderByteDue (some ct) s →
    exec i s = .next { s with
      hdr := { s.hdr with dsize := some ds }
      tables := {
        ct := none
        ascii := if ct = .ascii then some generateAsciiTables else none
        lenLut := some ((fillSlots lenBits lenCode).map (BitVec.ofNat 4))
        distLut := some ((fillSlots distBits distCode).map (BitVec.ofNat 6)) }
      ipos := 16
      phase := .streaming }

/-- R205, R208, R220: in the `feed` in which the fourth byte arrives, stream bytes 0 and 1 are checked in order, and a legal
header leads to `Streaming` with nothing produced. -/
def Obligations.FeedReadsTheHeader : Prop :=
  ∀ s : State, Inv s → s.limits = .unbounded → HeaderByteDue none s →
    ∃ b0 b1, s.input.mem.read 0 = some b0 ∧ s.input.mem.read 1 = some b1
      ∧ (b0 ≠ 0 ∧ b0 ≠ 1 → ∃ t, step s = .next t ∧ t.phase = .failed ∧ t.err = some .invalidCompressionType)
      ∧ (b0 = 0 ∨ b0 = 1 → b1 ≠ 4 ∧ b1 ≠ 5 ∧ b1 ≠ 6 →
          ∃ u t, step s = .next u ∧ step u = .next t ∧ t.phase = .failed ∧ t.err = some .invalidDictionarySize)
      ∧ ∀ (ct : CType) (ds : DSize), b0 = ctypeCode ct → b1 = dsizeCode ds →
          ∃ u t, step s = .next u ∧ step u = .next t
            ∧ t = { s with
                hdr := { ctype := some ct, dsize := some ds }
                tables := t.tables
                ipos := 16
                phase := .streaming }

/-- R207: with fewer than 4 bytes a `feed` only buffers and sets `NEEDS_MORE`, whatever the bytes are; a `finish` then raises
`InvalidDataError`. -/
def Obligations.ShortInputIsNotParsed : Prop :=
  (∀ s : State, Inv s → s.limits = .unbounded → s.kind = some .explode → s.activity = .feed →
    s.phase = .awaitingHeader → s.input.total < 4 →
    ∃ t, step s = .next t ∧ t.phase = .awaitingHeader ∧ t.flags.needsMore = true ∧ t.err = none ∧ t.activity = .idle
      ∧ t.hdr = { ctype := none, dsize := none } ∧ t.input.total = s.input.total
      ∧ (∀ a, t.input.mem.read a = s.input.mem.read a)
      ∧ t.replies = s.replies ++ [{ producedOutput := [], error := none }])
  ∧ ∀ s : State, Inv s → s.limits = .unbounded → s.kind = some .explode → s.activity = .finish →
      s.phase = .awaitingHeader → s.input.total < 4 ∧ ∃ t, step s = .next t ∧ t.phase = .failed ∧ t.err = some .invalidData
        ∧ t.replies = s.replies ++ [{ producedOutput := [], error := some .invalidData }]

/-! ## The symbols -/

/-- LIT.B (R94, R224): the byte at the end of the window and of `OUT`, `IPOS + 9`, nothing else. -/
def Obligations.BinaryLiteralResult : Prop :=
  ∀ (b : Byte) (s : State), SymbolDue .binary s →
    ∃ t, exec (.litB b) s = .next t
      ∧ t = { s with win := t.win, output := t.output, ipos := s.ipos + 9 }
      ∧ t.win.len = s.win.len + 1
      ∧ (∀ a, t.win.mem.read a = if a = s.win.len then some b else s.win.mem.read a)
      ∧ t.output.count = s.output.count + 1
      ∧ (∀ a, t.output.mem.read a = if a = s.output.mem.next then some b else s.output.mem.read a)

/-- LIT.A.00 to LIT.A.FF (R95, R225): as LIT.B, with `IPOS + 1 + ChBitsAsc[b]`. -/
def Obligations.AsciiLiteralResult : Prop :=
  ∀ (i : Instr) (b : Byte) (s : State), i.item = .litA b → SymbolDue .ascii s →
    ∃ t, exec i s = .next t
      ∧ t = { s with win := t.win, output := t.output, ipos := s.ipos + 1 + romAt chBitsAsc b.toNat }
      ∧ t.win.len = s.win.len + 1
      ∧ (∀ a, t.win.mem.read a = if a = s.win.len then some b else s.win.mem.read a)
      ∧ t.output.count = s.output.count + 1
      ∧ (∀ a, t.output.mem.read a = if a = s.output.mem.next then some b else s.output.mem.read a)

/-- LEN.0 to LEN.15 (R96, R100): the length `2 + LenBase[i] + lextra` and the bit after the LEN part are kept for the DIST
part; nothing else changes, `IPOS` included (R24). That a MATCH takes two steps is the model's choice (log 3). -/
def Obligations.LengthPartResult : Prop :=
  ∀ (i : Instr) (bucket extra : Nat) (ct : CType) (s : State), i.item = .len bucket extra →
    ¬(bucket = 15 ∧ extra = 255) → SymbolDue ct s →
    exec i s = .next { s with pending := some {
      length := 2 + lenBase bucket + extra
      pos := s.ipos + (1 + romAt lenBits bucket + romAt exLenBits bucket) } }

/-- EOS (R227). That the term `.len15 0xFF`, whose bits R97 and R106 give to EOS, acts as EOS when executed is the model's
reading (log 12); the decoder never answers it. -/
def Obligations.EndOfStreamResult : Prop :=
  ∀ (i : Instr) (ct : CType) (s : State), i = .eos ∨ i = .len15 0xFF → SymbolDue ct s →
    exec i s = .next { s with
      flags := { s.flags with eosSeen := true, needsMore := false }
      ipos := s.ipos + 16 }

/-- DIST.0 to DIST.63 (R98, R101, R226, R193): with the offset within the bytes produced, `L` bytes are appended to the
window and to `OUT`, the `j`-th being the byte at `n - OFF + (j mod OFF)`; `IPOS` goes to the bit after the DIST part;
nothing else changes. -/
def Obligations.DistancePartCopies : Prop :=
  ∀ (i : Instr) (c : Nat) (low : DistLow) (m : PendingMatch) (ds : DSize) (s : State), i.item = .dist c low →
    DistanceDue m ds s → lowWidth low = distWidth s.len2Short m.length ds → SpacesOk s →
    ((c <<< widthBits (lowWidth low)) ||| lowValue low) + 1 ≤ s.win.len →
    ∃ t, exec i s = .next t
      ∧ t = { s with
          win := t.win
          output := t.output
          ipos := m.pos + (romAt distBits c + widthBits (lowWidth low))
          pending := none }
      ∧ t.win.len = s.win.len + m.length
      ∧ t.output.count = s.output.count + m.length
      ∧ (∀ a, a < s.win.len ∨ s.win.len + m.length ≤ a → t.win.mem.read a = s.win.mem.read a)
      ∧ (∀ a, a < s.output.mem.next ∨ s.output.mem.next + m.length ≤ a → t.output.mem.read a = s.output.mem.read a)
      ∧ ∀ j, j < m.length →
          let source := s.win.len - (((c <<< widthBits (lowWidth low)) ||| lowValue low) + 1)
            + j % (((c <<< widthBits (lowWidth low)) ||| lowValue low) + 1)
          t.win.mem.read (s.win.len + j) = s.win.mem.read source
            ∧ t.output.mem.read (s.output.mem.next + j) = s.win.mem.read source

/-- R233: a match that reaches before the first byte raises `MalformedSymbolError`, and no byte of it is produced. -/
def Obligations.DistanceBeyondProducedFails : Prop :=
  ∀ (i : Instr) (c : Nat) (low : DistLow) (m : PendingMatch) (ds : DSize) (s : State), i.item = .dist c low →
    DistanceDue m ds s → lowWidth low = distWidth s.len2Short m.length ds → s.win.len < matchOffset c low →
    ∃ t, exec i s = .next t ∧ t.phase = .failed ∧ t.err = some .malformedSymbol ∧ t.flags.needsMore = false
      ∧ t.output.mem = [] ∧ t.activity = .idle
      ∧ t.replies = s.replies ++ [{ producedOutput := [], error := some .malformedSymbol }]

/-- An item that cannot stand where the engine is (R90, R93 to R98) is refused by name. The refusal is the model's choice
(log 11); the decoder never reads such an item (`EncodeInvertsDecode`). -/
def Obligations.OutOfPlaceItemRefused : Prop :=
  ∀ (i : Instr) (s : State), (∀ p, s.place = some p → ¬canStand i.item p) → exec i s = .refused .itemOutOfPlace

/-- MATCH, a LEN part and the DIST part after it (R99, R226): `copyMatch(L, OFF)`, `IPOS` plus the size of the whole item. -/
def Obligations.MatchIsLengthThenDistance : Prop :=
  ∀ (i j : Instr) (bucket extra c : Nat) (low : DistLow) (ct : CType) (ds : DSize) (s : State),
    i.item = .len bucket extra → ¬(bucket = 15 ∧ extra = 255) → j.item = .dist c low → SymbolDue ct s →
    s.hdr.dsize = some ds → lowWidth low = distWidth s.len2Short (matchLength bucket extra) ds → SpacesOk s →
    ∃ u, exec i s = .next u
      ∧ (s.win.len < matchOffset c low →
          ∃ t, exec j u = .next t ∧ t.phase = .failed ∧ t.err = some .malformedSymbol)
      ∧ (matchOffset c low ≤ s.win.len →
          ∃ t, exec j u = .next t
            ∧ t = { s with
                win := t.win
                output := t.output
                ipos := s.ipos + (1 + romAt lenBits bucket + romAt exLenBits bucket + romAt distBits c
                  + widthBits (lowWidth low)) }
            ∧ t.win.len = s.win.len + matchLength bucket extra
            ∧ (∀ a, a < s.win.len → t.win.mem.read a = s.win.mem.read a)
            ∧ ∀ k, k < matchLength bucket extra →
                t.win.mem.read (s.win.len + k) = s.win.mem.read (s.win.len - matchOffset c low + k % matchOffset c low))

/-- R193: the closed form of `copyMatch`. -/
def Obligations.CopyMatchClosedForm : Prop :=
  ∀ (count off : Nat) (s : State), SpacesOk s → 1 ≤ off → off ≤ s.win.len →
    ∃ t, copyMatch count off s = .next t ∧ t.win.len = s.win.len + count
      ∧ (∀ j, j < count → t.win.mem.read (s.win.len + j) = s.win.mem.read (s.win.len - off + j % off))
      ∧ (count ≤ off → ∀ j, j < count → t.win.mem.read (s.win.len + j) = s.win.mem.read (s.win.len - off + j))
      ∧ (off = 1 → ∀ j, j < count → t.win.mem.read (s.win.len + j) = s.win.mem.read (s.win.len - 1))
      ∧ ∀ a, a < s.win.len → t.win.mem.read a = s.win.mem.read a

/-! ## Fetch and decode -/

/-- Where the bits at the place due decode to an item, the step runs that item (R222, R223); what the step adds is the limits
of the implementation (R10, R126): with the defaults nothing, and otherwise a state that exceeds one is refused, and no
other. That a step is one item is the model's choice (log 3), and so is what counts as exceeding (log 7). -/
def Obligations.StepRunsDecodedItem : Prop :=
  (∀ (s : State) (p : Place) (i : Instr) (rest : Bits), s.place = some p →
    decode s.tables p (s.bitsFrom Config.fetchSpan (s.itemStart p)) = .item i rest →
    (s.limits = .unbounded → step s = exec i s)
      ∧ ∀ t, exec i s = .next t → (t.fits s.limits = true → step s = .next t)
        ∧ (t.fits s.limits = false → step s = .refused .limitExceeded))
  ∧ (∀ s t : State, step s = .next t → t.limits = s.limits ∧ t.len2Short = s.len2Short)
  ∧ ∀ s t : State, step s = .next t → t.phase ≠ .failed →
      (∀ w, s.limits.posWidth = some w → t.ipos < 2 ^ w ∧ t.input.total < 2 ^ w ∧ t.input.base < 2 ^ w ∧ t.win.len < 2 ^ w
        ∧ (t.kind = some .implode → t.opos < 2 ^ w))
      ∧ (∀ c, s.limits.inCap = some c → t.input.mem.length ≤ c)
      ∧ (∀ c, s.limits.outCap = some c → t.output.mem.length ≤ c)
      ∧ ∀ c ds, s.limits.winCap = some c → t.hdr.dsize = some ds → min t.win.len (windowReach ds) ≤ c

/-- The 32 bits a fetch looks at are enough: more bits never change the item (R107; log 13). -/
def Obligations.FetchSpanSuffices : Prop :=
  ∀ (ct : CType) (p : Place) (bs : Bits), tablesAt ct p →
    decodedInstr (decode (explodeTables ct) p (bs.take Config.fetchSpan)) = decodedInstr (decode (explodeTables ct) p bs)

/-- The encoder's bits decode to the same instruction with every operand, at every place it can stand, whatever follows
(R90 to R99, R103). -/
def Obligations.DecodeInvertsEncode : Prop :=
  ∀ (i : Instr) (ct : CType) (p : Place) (rest : Bits), i.WellFormed = true → canStand i.item p → tablesAt ct p →
    decode (explodeTables ct) p (encode i ++ rest) = .item i rest

/-- What the decoder reads is the encoding of what it answers, a well-formed item that can stand there (R103, R106). -/
def Obligations.EncodeInvertsDecode : Prop :=
  ∀ (i : Instr) (ct : CType) (p : Place) (bs rest : Bits), tablesAt ct p →
    decode (explodeTables ct) p bs = .item i rest → bs = encode i ++ rest ∧ i.WellFormed = true ∧ canStand i.item p

/-- R104, last paragraph: after a valid header every bit sequence long enough is an item. -/
def Obligations.EveryLongBitSequenceDecodes : Prop :=
  ∀ (ct : CType) (p : Place) (bs : Bits), tablesAt ct p → p ≠ .hdr0 → p ≠ .hdr1 → 16 ≤ bs.length →
    ∃ i rest, decode (explodeTables ct) p bs = .item i rest

/-- A proper beginning of an item is never read as an item, nor as an error: it is `NeedMore` (R123, R228). -/
def Obligations.IncompleteItemNeedsMore : Prop :=
  ∀ (i : Instr) (ct : CType) (p : Place) (n : Nat), i.WellFormed = true → canStand i.item p → tablesAt ct p →
    n < (encode i).length → decode (explodeTables ct) p ((encode i).take n) = .needMore

/-- Words written out from the spec's formats and examples decode to the items they stand for (R91, R92, R94 to R98, R224 to
R227). -/
def Obligations.SpecWordsDecode : Prop :=
  decode noTables .hdr0 (natBits 8 0x01) = .item .hdr0Ascii []
  ∧ decode noTables .hdr1 (natBits 8 0x06) = .item .hdr1Large []
  ∧ decode (explodeTables .binary) (.symbol .binary) (natBits 9 0x082) = .item (.litB 0x41) []
  ∧ decode (explodeTables .ascii) (.symbol .ascii) [false, true, true, true, true] = .item .litA20 []
  ∧ decode (explodeTables .ascii) (.symbol .ascii) (natBits 12 0x920) = .item .litA00 []
  ∧ decode (explodeTables .binary) (.symbol .binary) [true, false, false, true, false, false, true]
      = .item (.len8 1) []
  ∧ decode (explodeTables .binary) (.distance .four) [true, true, true, false, false, false]
      = .item (.dist0 (.w4 1)) []
  ∧ decode (explodeTables .ascii) (.symbol .ascii) (natBits 16 0xFF01) = .item .eos []

/-- R94 and R97: the binary literal is the 9-bit value `byte << 1`; EOS is the 16-bit value 0xFF01, on a byte boundary the
bytes 01 FF, and is the LEN format with bucket 15 and extra bits 255. -/
def Obligations.FixedFormatValues : Prop :=
  (∀ b : Byte, (encode (.litB b)).length = 9 ∧ bitsValue (encode (.litB b)) = b.toNat <<< 1)
  ∧ (encode .eos).length = 16 ∧ bitsValue (encode .eos) = 0xFF01 ∧ packBits (encode .eos) = [0x01, 0xFF]
  ∧ encode .eos = encode (.len15 0xFF)

/-- R98, R101, R160: index `c` with `n` low bits covers the offsets `(c << n) + 1` to `(c << n) + 2^n`, every offset from 1
to `64 * 2^n` exactly once, and a higher index never has a shorter code. -/
def Obligations.DistanceOffsetsTile : Prop :=
  (∀ (c : Nat) (low : DistLow), (c <<< widthBits (lowWidth low)) + 1 ≤ matchOffset c low
    ∧ matchOffset c low ≤ (c <<< widthBits (lowWidth low)) + 2 ^ widthBits (lowWidth low))
  ∧ (∀ (w : DistWidth) (off : Nat), 1 ≤ off → off ≤ 64 * 2 ^ widthBits w →
      ∃ c low, c < 64 ∧ lowWidth low = w ∧ matchOffset c low = off
        ∧ ∀ c' low', lowWidth low' = w → matchOffset c' low' = off → c' = c ∧ low' = low)
  ∧ (∀ ds : DSize, 64 * 2 ^ widthBits (dsizeWidth ds) = windowReach ds)
  ∧ ∀ c c' : Nat, c ≤ c' → c' < 64 → romAt distBits c ≤ romAt distBits c'

/-- R100: `L` covers 2 to 518 exactly once each, and 519 once, as bucket 15 with extra bits 255, which is EOS. -/
def Obligations.MatchLengthsTile : Prop :=
  (∀ bucket extra, bucket < 16 → extra < 2 ^ romAt exLenBits bucket →
    matchLength bucket extra = 2 + ((exLenBits.take bucket).map fun e => 2 ^ e).sum + extra
      ∧ 2 ≤ matchLength bucket extra ∧ matchLength bucket extra ≤ 519)
  ∧ (∀ len, 2 ≤ len → len ≤ 519 → ∃ bucket extra, bucket < 16 ∧ extra < 2 ^ romAt exLenBits bucket
      ∧ matchLength bucket extra = len
      ∧ ∀ b e, b < 16 → e < 2 ^ romAt exLenBits b → matchLength b e = len → b = bucket ∧ e = extra)
  ∧ matchLength 15 255 = 519

/-! ## Tables -/

/-- R150 to R153: the entries of the CodeTable. -/
def Obligations.CodeTableEntries : Prop :=
  (∀ b : Nat, b < 256 → (codeTable .binary)[b]? = some { bits := 9, code := BitVec.ofNat 16 (b <<< 1) })
  ∧ (∀ b : Nat, b < 256 → (codeTable .ascii)[b]? = some {
      bits := BitVec.ofNat 5 (romAt chBitsAsc b + 1)
      code := BitVec.ofNat 16 (romAt chCodeAsc b <<< 1) })
  ∧ (∀ (ct : CType) (i e : Nat), i < 16 → e < 1 <<< romAt exLenBits i →
      (codeTable ct)[0x100 + lenBase i + e]? = some {
        bits := BitVec.ofNat 5 (1 + romAt lenBits i + romAt exLenBits i)
        code := BitVec.ofNat 16 ((e <<< (romAt lenBits i + 1)) ||| (romAt lenCode i <<< 1) ||| 1) })
  ∧ ∀ ct : CType, (codeTable ct).length = 0x306 ∧ (codeTable ct)[0x305]? = some { bits := 16, code := 0xFF01 }

/-- R170 and R171: the iterator, and its enumeration as the rising indices `seed + k * 2^step` below the limit; for a seed
below `2^step` and a limit `2^k` these are the indices whose low bits are the seed. -/
def Obligations.PatEnumerationIsTheProgression : Prop :=
  (∀ limit step seed, (limit ≤ seed → patIterator limit step seed = none)
    ∧ (seed < limit → patIterator limit step seed = some (seed, seed + (1 <<< step))))
  ∧ (∀ limit step seed x, x ∈ patEnumerate limit step seed ↔ x < limit ∧ ∃ k, x = seed + k * 2 ^ step)
  ∧ (∀ limit step seed, (patEnumerate limit step seed).Pairwise (· < ·))
  ∧ (∀ k step seed x, seed < 2 ^ step → (x ∈ patEnumerate (2 ^ k) step seed ↔ x < 2 ^ k ∧ x % 2 ^ step = seed))
  ∧ patEnumerate 20 2 3 = [3, 7, 11, 15, 19]
  ∧ patEnumerate 10 1 10 = []

/-- R172 and R174 to R180, R156, R157: the generator makes the tables the spec prints, with the sizes of R175, and the
lookup tables are the enumeration of their codes; no enumeration gives a slot at or above its limit. -/
def Obligations.GeneratedTablesArePrinted : Prop :=
  generateAsciiTables = asciiTables
  ∧ asciiTables.t2c34.length = 0x100 ∧ asciiTables.t2d34.length = 0x100 ∧ asciiTables.t2e34.length = 0x80
  ∧ asciiTables.t2eb4.length = 0x100 ∧ asciiTables.chBits.length = 0x100
  ∧ fillSlots lenBits lenCode = lenLutRom ∧ fillSlots distBits distCode = distLutRom
  ∧ ∀ bits symbol base limit x, x ∈ populateAsciiTable bits symbol base limit → x < limit

/-- R183: in every bit sequence exactly one literal's code stands first, bits not there read as 0; the table-driven decode
gives that literal and consumes its code's bits, or `NeedMore` if they are not all there. It never selects a `NONE` slot
(R181). -/
def Obligations.AsciiDecodeByPrefix : Prop :=
  ∀ bs : Bits, ∃ v : Byte, peekBits 13 bs % 2 ^ romAt chBitsAsc v.toNat = romAt chCodeAsc v.toNat
    ∧ (∀ u : Byte, peekBits 13 bs % 2 ^ romAt chBitsAsc u.toNat = romAt chCodeAsc u.toNat → u = v)
    ∧ decodeAsciiLiteral asciiTables bs =
        if romAt chBitsAsc v.toNat ≤ bs.length then .literal v (bs.drop (romAt chBitsAsc v.toNat)) else .needMore

/-- R154: length decode, reference semantics, after a discriminator 1 in a stream of either type. -/
def Obligations.LengthDecodeByPrefix : Prop :=
  ∀ (ct : CType) (bs : Bits), ∃ i : Nat, i < 16 ∧ peekBits 8 bs % 2 ^ romAt lenBits i = romAt lenCode i
    ∧ (∀ j, j < 16 → peekBits 8 bs % 2 ^ romAt lenBits j = romAt lenCode j → j = i)
    ∧ decode (explodeTables ct) (.symbol ct) (true :: bs) =
        match skipBits (romAt lenBits i) bs with
        | none => .needMore
        | some after =>
          match takeBits (romAt exLenBits i) after with
          | none => .needMore
          | some (e, rest) =>
            if 0x100 + lenBase i + e = 0x305 then .item .eos rest else .item (Instr.len i e) rest

/-- R155: distance decode, reference semantics. -/
def Obligations.DistanceDecodeByPrefix : Prop :=
  ∀ (ct : CType) (w : DistWidth) (bs : Bits), ∃ c : Nat, c < 64
    ∧ peekBits 8 bs % 2 ^ romAt distBits c = romAt distCode c
    ∧ (∀ j, j < 64 → peekBits 8 bs % 2 ^ romAt distBits j = romAt distCode j → j = c)
    ∧ decode (explodeTables ct) (.distance w) bs =
        match skipBits (romAt distBits c) bs with
        | none => .needMore
        | some after =>
          match takeBits (widthBits w) after with
          | none => .needMore
          | some (v, rest) => .item (Instr.dist c (lowOf w v)) rest

/-- R148: the three alphabets are complete and prefix-free in stream order, each table of codes is the one computed from its
table of lengths alone, and the published example decodes. -/
def Obligations.AlphabetsCompleteAndPrefixFree : Prop :=
  (lenBits.map fun b => 2 ^ (13 - b)).sum = 2 ^ 13 ∧ (distBits.map fun b => 2 ^ (13 - b)).sum = 2 ^ 13
  ∧ (chBitsAsc.map fun b => 2 ^ (13 - b)).sum = 2 ^ 13
  ∧ (∀ x y, x < 16 → y < 16 → x ≠ y → romAt lenBits x ≤ romAt lenBits y →
      romAt lenCode y % 2 ^ romAt lenBits x ≠ romAt lenCode x)
  ∧ (∀ x y, x < 64 → y < 64 → x ≠ y → romAt distBits x ≤ romAt distBits y →
      romAt distCode y % 2 ^ romAt distBits x ≠ romAt distCode x)
  ∧ (∀ x y, x < 256 → y < 256 → x ≠ y → romAt chBitsAsc x ≤ romAt chBitsAsc y →
      romAt chCodeAsc y % 2 ^ romAt chBitsAsc x ≠ romAt chCodeAsc x)
  ∧ canonicalCodes lenBits = lenCode ∧ canonicalCodes distBits = distCode ∧ canonicalCodes chBitsAsc = chCodeAsc
  ∧ ∀ len2Short, explodeStream len2Short [0x00, 0x04, 0x82, 0x24, 0x25, 0x8F, 0x80, 0x7F]
      = .ok [0x41, 0x49, 0x41, 0x49, 0x41, 0x49, 0x41, 0x49, 0x41, 0x49, 0x41, 0x49, 0x41]

/-! ## The bit cursor -/

/-- R121, the word form of `putBits`; and `OPOS` (R22) grows by `n`. -/
def Obligations.PutBitsWordForm : Prop :=
  ∀ (n : Nat) (v : BitVec 16) (s : State), n ≤ 16 → SpacesOk s → s.bc.partialByte >>> s.bc.bitsFilled.toNat = 0 →
    let acc := s.bc.partialByte.toNat ||| ((v.toNat % 2 ^ n) <<< s.bc.bitsFilled.toNat)
    let total := s.bc.bitsFilled.toNat + n
    let t := putBits n v s
    t = { s with bc := t.bc, output := t.output }
      ∧ t.output.mem.bytes
          = s.output.mem.bytes ++ (List.range (total / 8)).map (fun k => BitVec.ofNat 8 (acc >>> (8 * k)))
      ∧ t.output.count = s.output.count + total / 8
      ∧ t.bc.bitsFilled.toNat = total % 8
      ∧ t.bc.partialByte.toNat = acc >>> (8 * (total / 8))
      ∧ t.bc.partialByte >>> t.bc.bitsFilled.toNat = 0
      ∧ t.opos = s.opos + n

/-- R124: `flush` completes the last byte with zero bits, and does nothing on a byte boundary. -/
def Obligations.FlushCompletesTheByte : Prop :=
  ∀ s : State, SpacesOk s →
    (s.bc.bitsFilled = 0 → s.flush = s)
    ∧ (s.bc.bitsFilled ≠ 0 →
        s.flush = { s with bc := { partialByte := 0, bitsFilled := 0 }, output := s.flush.output }
          ∧ s.flush.output.mem.bytes = s.output.mem.bytes ++ [s.bc.partialByte]
          ∧ s.flush.output.count = s.output.count + 1)

/-- R12, R122 and R123: a field read at stream bit `pos` is the sum of its bits, bit `pos + j` at place `j`; a field that is
not wholly received is refused by `takeBits` and `skipBits`, and read with 0 for the missing bits by `peekBits`. -/
def Obligations.FieldsReadStreamBits : Prop :=
  ∀ (s : State) (pos n : Nat), SpacesOk s → 8 * s.input.base ≤ pos → pos ≤ 8 * s.input.total → n ≤ 16 →
    let bs := s.bitsFrom Config.fetchSpan pos
    let field := ((List.range n).map fun j => if (s.bitAt (pos + j)).getD false then 2 ^ j else 0).sum
    peekBits n bs = field
      ∧ (n ≤ 8 * s.input.total - pos → takeBits n bs = some (field, s.bitsFrom (Config.fetchSpan - n) (pos + n))
          ∧ skipBits n bs = some (s.bitsFrom (Config.fetchSpan - n) (pos + n)))
      ∧ (8 * s.input.total - pos < n → takeBits n bs = none ∧ skipBits n bs = none)

/-! ## Transactions -/

/-- R297: a `feed` or `finish` on a `Failed` instance changes no state of it and returns its error. -/
def Obligations.FailedInstanceRepeatsItsError : Prop :=
  ∀ (s : State) (r : Request) (rest : List Request), s.kind ≠ none → s.activity = .idle → s.phase = .failed →
    (r = .finish ∨ ∃ chunk, r = .feed chunk) → s.requests = r :: rest →
    step s = .next { s with requests := rest, replies := s.replies ++ [{ producedOutput := [], error := s.err }] }

/-- R296 and R298: a `feed` or `finish` after `finish`, and a `feed` with an empty chunk, change no state and return nothing.
(A `Failed` instance repeats its error instead, R297.) -/
def Obligations.RefusedTransactionsChangeNothing : Prop :=
  ∀ (s : State) (r : Request) (rest : List Request), s.limits = .unbounded → s.kind ≠ none → s.activity = .idle →
    s.phase ≠ .failed →
    (s.flags.streamEnded = true ∧ (r = .finish ∨ ∃ chunk, r = .feed chunk)) ∨ r = .feed [] → s.requests = r :: rest →
    step s = .next { s with requests := rest, replies := s.replies ++ [{ producedOutput := [], error := none }] }

/-- R25, R293, R294: otherwise a `feed` appends its chunk to `IN`, and a `finish` sets `STREAM_ENDED`; `NEEDS_MORE` is 0 and
the state machine runs. -/
def Obligations.TransactionsBegin : Prop :=
  ∀ (s : State) (rest : List Request), s.limits = .unbounded → s.kind ≠ none → s.activity = .idle →
    s.phase ≠ .failed → s.flags.streamEnded = false →
    (∀ chunk, chunk ≠ [] → s.requests = .feed chunk :: rest →
      ∃ t, step s = .next t
        ∧ t = { s with
            requests := rest
            flags := { s.flags with needsMore := false }
            input := { s.input with mem := t.input.mem, total := s.input.total + chunk.length }
            activity := .feed }
        ∧ (∀ k, k < chunk.length → t.input.mem.read (s.input.total + k) = chunk[k]?)
        ∧ ∀ a, a < s.input.total ∨ s.input.total + chunk.length ≤ a → t.input.mem.read a = s.input.mem.read a)
    ∧ (s.requests = .finish :: rest →
        step s = .next { s with
          requests := rest
          flags := { s.flags with needsMore := false, streamEnded := true }
          activity := .finish })

/-- R313: what raising an error does. Everything not named here takes a free value (log 4). -/
def Obligations.RaiseResult : Prop :=
  ∀ (e : ErrorKind) (s : State),
    (raise e s).phase = .failed ∧ (raise e s).err = some e ∧ (raise e s).flags.needsMore = false
      ∧ (raise e s).output.mem = [] ∧ (raise e s).activity = .idle
      ∧ (raise e s).replies = s.replies ++ [{ producedOutput := [], error := some e }]
      ∧ phaseCode (raise e s).phase = 4
      ∧ errCode (raise e s).err = match e with
          | .invalidData => 1
          | .invalidCompressionType => 2
          | .invalidDictionarySize => 3
          | .truncatedStream => 4
          | .malformedSymbol => 5

/-- R28, R313: no step but one that makes or discards an instance leaves `Failed` or changes the error. -/
def Obligations.FailedIsSticky : Prop :=
  ∀ s t : State, s.keepsInstance → s.phase = .failed → step s = .next t → t.phase = .failed ∧ t.err = s.err

/-- R29, R38 items 1 and 2: while an instance has not failed, its header once parsed, and its tables once built, never
change. -/
def Obligations.HeaderAndTablesFixed : Prop :=
  ∀ s t : State, Inv s → s.keepsInstance → step s = .next t → t.phase ≠ .failed → s.phase ≠ .awaitingHeader →
    t.hdr = s.hdr ∧ t.tables = s.tables ∧ t.phase ≠ .awaitingHeader

/-- R20, R24, R25, R36, R190: while an instance has not failed, its kind is fixed, `IPOS`, `IN_TOTAL`, `IN_BASE` and
`WIN_LEN` never go backwards, no byte of the window is rewritten, no byte still in `IN` changes, and `EOS_SEEN` stays set. -/
def Obligations.StreamOnlyGrows : Prop :=
  ∀ s t : State, Inv s → s.keepsInstance → step s = .next t → t.phase ≠ .failed →
    t.kind = s.kind ∧ s.ipos ≤ t.ipos ∧ s.input.total ≤ t.input.total ∧ s.input.base ≤ t.input.base
      ∧ s.win.len ≤ t.win.len ∧ (∀ a, a < s.win.len → t.win.mem.read a = s.win.mem.read a)
      ∧ (∀ a, t.input.base ≤ a → a < s.input.total → t.input.mem.read a = s.input.mem.read a)
      ∧ (s.flags.eosSeen = true → t.flags.eosSeen = true)

/-- R228, R229: an item that is not wholly there ends the transaction with `NEEDS_MORE`; a LEN part already read is forgotten,
and position, window, tables, header and the other flags are as before; what was produced is delivered, and the unfinished
symbol's bytes stay in `IN`. The model's choices: the transaction ends in this same step (log 2), a LEN part may have been
read in an earlier step and is dropped here (log 3), and consumed input is dropped here (R25, log 6). -/
def Obligations.NeedMoreIsAtomic : Prop :=
  ∀ (s : State) (p : Place), Inv s → s.limits = .unbounded → s.place = some p → s.fetch p = .needMore →
    ∃ t, step s = .next t
      ∧ t = { s with
          flags := { s.flags with needsMore := true }
          output := { s.output with mem := [] }
          input := { s.input with mem := t.input.mem, base := t.input.base }
          pending := none
          activity := .idle
          replies := s.replies ++ [{ producedOutput := s.output.mem.bytes, error := none }] }
      ∧ 8 * t.input.base ≤ s.ipos
      ∧ ∀ a, s.ipos / 8 ≤ a → t.input.mem.read a = s.input.mem.read a

/-- R236: once EOS has been decoded, a `feed` of any bytes is accepted without error, decodes nothing and produces nothing. -/
def Obligations.NothingDecodedAfterEos : Prop :=
  ∀ (s : State) (chunk : List Byte) (rest : List Request), Inv s → s.limits = .unbounded → s.kind = some .explode →
    s.activity = .idle → s.phase = .streaming → s.flags.eosSeen = true → s.requests = .feed chunk :: rest → chunk ≠ [] →
    ∃ u t, step s = .next u ∧ step u = .next t
      ∧ t = { s with
          flags := { s.flags with needsMore := false }
          input := t.input
          requests := rest
          replies := s.replies ++ [{ producedOutput := [], error := none }] }

/-- R230, R231: `finish` on a streaming EXPLODE engine passes through `Flushing` and decodes nothing: `Done` if EOS was seen,
else `TruncatedStreamError`; no bytes either way. -/
def Obligations.FinishOfExplodeEngine : Prop :=
  ∀ (s : State) (rest : List Request), Inv s → s.limits = .unbounded → s.kind = some .explode → s.activity = .idle →
    s.phase = .streaming → s.requests = .finish :: rest →
    ∃ u v t, step s = .next u ∧ step u = .next v ∧ v.phase = .flushing ∧ step v = .next t
      ∧ (s.flags.eosSeen = true → t.phase = .done ∧ t.err = none ∧ t.win = s.win ∧ t.ipos = s.ipos
          ∧ t.flags = { needsMore := false, streamEnded := true, eosSeen := true }
          ∧ t.replies = s.replies ++ [{ producedOutput := [], error := none }])
      ∧ (s.flags.eosSeen = false → t.phase = .failed ∧ t.err = some .truncatedStream
          ∧ t.replies = s.replies ++ [{ producedOutput := [], error := some .truncatedStream }])

/-! ## The IMPLODE engine -/

/-- R209, R261: in the first `feed` or `finish`, before anything else, the two header bytes go to `OUT`, the CodeTable is
built, `PHASE = Streaming`. -/
def Obligations.ImplodeStreamStarts : Prop :=
  ∀ s : State, Inv s → s.limits = .unbounded → s.kind = some .implode → s.activity ≠ .idle → s.phase = .awaitingHeader →
    ∃ t ct ds, s.hdr = { ctype := some ct, dsize := some ds } ∧ step s = .next t
      ∧ t = { s with
          output := t.output
          tables := { ct := some (codeTable ct), ascii := none, lenLut := none, distLut := none }
          phase := .streaming }
      ∧ t.output.mem.bytes = s.output.mem.bytes ++ [ctypeCode ct, dsizeCode ds]
      ∧ t.output.count = s.output.count + 2

/-- R262, R263: a position is decided only with 518 bytes of lookahead or after `finish`; otherwise the engine stops, sets
`NEEDS_MORE` and keeps the bytes from `IPOS` on. A decision is a match where the finder found one, else a literal. -/
def Obligations.CompressorDefersItsDecisions : Prop :=
  ∀ (s : State) (ct : CType) (ds : DSize), Inv s → s.limits = .unbounded → s.kind = some .implode →
    s.hdr = { ctype := some ct, dsize := some ds } →
    (s.activity = .feed → s.phase = .streaming → s.input.total - s.ipos < 518 →
      ∃ t, step s = .next t ∧ t.flags.needsMore = true ∧ t.activity = .idle ∧ t.ipos = s.ipos ∧ t.win = s.win
        ∧ t.bc = s.bc ∧ t.replies = s.replies ++ [{ producedOutput := s.output.mem.bytes, error := none }]
        ∧ t.input.base ≤ s.ipos ∧ t.input.total = s.input.total
        ∧ ∀ a, s.ipos ≤ a → t.input.mem.read a = s.input.mem.read a)
    ∧ ((s.activity = .feed ∧ s.phase = .streaming ∧ 518 ≤ s.input.total - s.ipos)
        ∨ (s.activity = .finish ∧ s.phase = .flushing ∧ s.ipos < s.input.total) →
      step s = if 2 ≤ (s.findMatch (windowReach ds) s.ipos).1
        then emitMatch ds (s.findMatch (windowReach ds) s.ipos).1 (s.findMatch (windowReach ds) s.ipos).2 s
        else emitLiteral s)

/-- R264 to R266: the answer of the match finder. A match found is as long as its run, no offset in reach has a longer run and
no nearer offset one as long, and it meets the guarantee to the encoder. With none found, no offset in reach has a run of 3,
nor one within 256 a run of 2. -/
def Obligations.FindMatchIsLongestAndNearest : Prop :=
  ∀ (s : State) (reach p : Nat),
    let best := s.findMatch reach p
    let run := fun off => s.runLength (min 518 (s.input.total - p)) (p - off) p
    (2 ≤ best.1 → run best.2 = best.1
      ∧ (∀ off, 1 ≤ off → off ≤ min reach p → run off ≤ best.1)
      ∧ (∀ off, 1 ≤ off → off < best.2 → run off < best.1)
      ∧ best.1 ≤ 518 ∧ best.1 ≤ s.input.total - p ∧ 1 ≤ best.2 ∧ best.2 ≤ min reach p
      ∧ (best.1 = 2 → best.2 ≤ 256)
      ∧ ∀ j, j < best.1 → s.streamByte (p + j) = s.streamByte (p - best.2 + j))
    ∧ (best.1 < 2 → best = (0, 0)
      ∧ ∀ off, 1 ≤ off → off ≤ min reach p → run off ≤ 2 ∧ (off ≤ 256 → run off ≤ 1))

/-- R194, R268, R269: the bits of the literal item follow those already put, its byte moves to the window, `IPOS + 1`. -/
def Obligations.EmitLiteralResult : Prop :=
  ∀ (s : State) (ct : CType), Inv s → s.kind = some .implode → s.phase = .streaming ∨ s.phase = .flushing →
    s.hdr.ctype = some ct → s.ipos < s.input.total →
    ∃ t b, emitLiteral s = .next t ∧ s.input.mem.read s.ipos = some b
      ∧ t = { s with bc := t.bc, output := t.output, win := t.win, ipos := s.ipos + 1 }
      ∧ t.outBits = s.outBits ++ encode (match ct with | .binary => .litB b | .ascii => Instr.litA b)
      ∧ t.win.len = s.win.len + 1 ∧ t.win.mem.read s.ipos = some b
      ∧ ∀ a, a < s.win.len → t.win.mem.read a = s.win.mem.read a

/-- R158, R194, R268, R270: the bits of the LEN item and of the DIST item of length `L` and offset `OFF` follow those already
put, `L` bytes move to the window, `IPOS + L`. -/
def Obligations.EmitMatchResult : Prop :=
  ∀ (s : State) (ds : DSize) (len off : Nat), Inv s → s.kind = some .implode →
    s.phase = .streaming ∨ s.phase = .flushing → s.hdr.dsize = some ds → 2 ≤ len → len ≤ 518 →
    len ≤ s.input.total - s.ipos → 1 ≤ off → off ≤ 64 * 2 ^ widthBits (distWidth s.len2Short len ds) →
    ∃ t i j bucket extra c low, emitMatch ds len off s = .next t
      ∧ i.item = .len bucket extra ∧ i.WellFormed = true ∧ matchLength bucket extra = len
      ∧ j.item = .dist c low ∧ lowWidth low = distWidth s.len2Short len ds ∧ matchOffset c low = off
      ∧ t.outBits = s.outBits ++ encode i ++ encode j
      ∧ t = { s with bc := t.bc, output := t.output, win := t.win, ipos := s.ipos + len }
      ∧ t.win.len = s.win.len + len
      ∧ (∀ k, k < len → t.win.mem.read (s.ipos + k) = s.input.mem.read (s.ipos + k))
      ∧ ∀ a, a < s.win.len → t.win.mem.read a = s.win.mem.read a

/-- R124, R271, R272: with every position decided, `finish` puts EOS, pads with fewer than 8 zero bits, and ends: `Done`, the
cursor empty, `IPOS = IN_TOTAL = WIN_LEN`, every completed byte delivered. -/
def Obligations.CompressedStreamEnds : Prop :=
  ∀ s : State, Inv s → s.limits = .unbounded → s.kind = some .implode → s.activity = .finish → s.phase = .flushing →
    s.ipos = s.input.total →
    ∃ t bytes pad, step s = .next t ∧ t.phase = .done ∧ t.bc = { partialByte := 0, bitsFilled := 0 }
      ∧ t.ipos = t.input.total ∧ t.input.total = t.win.len ∧ t.win = s.win
      ∧ t.flags = { needsMore := false, streamEnded := true, eosSeen := true }
      ∧ t.replies = s.replies ++ [{ producedOutput := bytes, error := none }]
      ∧ pad < 8 ∧ bytesBits bytes = s.outBits ++ encode .eos ++ List.replicate pad false

/-! ## The whole machine -/

/-- The state after reset meets the invariant (R38, R39). -/
def Obligations.ResetMeetsInvariant : Prop := Inv State.reset

/-- Every step keeps the invariant: the byte spaces hold exactly the bytes R60 says, phases, flags and `ERR` agree (R26 to
R28, R38 item 5), the header and the tables are those of the stream (R29, R38), `IPOS` stays inside the input (R24), an
IMPLODE engine's window is in step with `IPOS` (R194) and its cursor holds no bit above `BC.FILLED` (R22). -/
def Obligations.StepKeepsInvariant : Prop := ∀ s t : State, Inv s → step s = .next t → Inv t

/-- From a good state, with the host having created an instance before it asks for a `feed` or a `finish` (R306), no step
faults or is refused: the machine always goes on. On an implementation with bounded buffers or counters a step may be refused
for them, and for nothing else (R10, R126). -/
def Obligations.StepAlwaysAnswers : Prop :=
  ∀ s : State, Inv s → s.hostObeys →
    (∃ t, step s = .next t) ∨ (s.limits ≠ .unbounded ∧ step s = .refused .limitExceeded)

/-- R235, R260, R311, R320: the only ways into `Failed`. An IMPLODE engine has none, and no lookup slot or symbol number
without a meaning is ever selected (R181, R223). -/
def Obligations.ErrorsHaveTheirCauses : Prop :=
  ∀ s t : State, Inv s → step s = .next t → s.phase ≠ .failed → t.phase = .failed →
    s.kind = some .explode ∧
      ((t.err = some .invalidData ∧ s.activity = .finish ∧ s.phase = .awaitingHeader ∧ s.input.total < 4)
        ∨ (t.err = some .truncatedStream ∧ s.activity = .finish ∧ s.phase = .flushing ∧ s.flags.eosSeen = false)
        ∨ (t.err = some .invalidCompressionType ∧ HeaderByteDue none s
            ∧ ∃ b, s.input.mem.read 0 = some b ∧ b ≠ 0 ∧ b ≠ 1)
        ∨ (t.err = some .invalidDictionarySize ∧ (∃ ct, HeaderByteDue (some ct) s)
            ∧ ∃ b, s.input.mem.read 1 = some b ∧ b ≠ 4 ∧ b ≠ 5 ∧ b ≠ 6)
        ∨ (t.err = some .malformedSymbol ∧ ∃ m ds i c low rest, DistanceDue m ds s
            ∧ s.fetch (.distance (lowWidth low)) = .item i rest ∧ i.item = .dist c low
            ∧ s.win.len < matchOffset c low))

/-! ## Whole streams -/

/-- R276, R277: an IMPLODE engine given any input in any chunks, and then `finish`, ends in `Done` without an error, and the
bytes it returns, put together, are `implode(S, ct, ds)`, in which every decision looks at the whole of `S`. -/
def Obligations.ImplodeEngineIgnoresChunking : Prop :=
  ∀ (s : State) (ct : CType) (ds : DSize) (chunks : List (List Byte)), s.limits = .unbounded → s.activity = .idle →
    s.requests = session (.createImplode (ctypeCode ct) (dsizeCode ds)) chunks →
    ∃ records t, Served s records t ∧ (∀ r ∈ records, r.error = none)
      ∧ outputs records = implodeStream s.len2Short ct ds chunks.flatten ∧ t.phase = .done

/-- R237, R238: an EXPLODE engine given any bytes in any chunks, and then `finish`, returns `explode(S)` when that is a
success, and otherwise ends in `Failed` with the same kind of error. -/
def Obligations.ExplodeEngineIgnoresChunking : Prop :=
  ∀ (s : State) (chunks : List (List Byte)), s.limits = .unbounded → s.activity = .idle →
    s.requests = session .createExplode chunks →
    ∃ records t, Served s records t ∧
      match explodeStream s.len2Short chunks.flatten with
      | .ok bytes => (∀ r ∈ records, r.error = none) ∧ outputs records = bytes ∧ t.phase = .done
      | .error e => t.phase = .failed ∧ t.err = some e ∧ ∃ r ∈ records, r.error = some e

/-- R239, the round-trip law. -/
def Obligations.ExplodeOfImplodeIsIdentity : Prop :=
  ∀ (len2Short : Bool) (ct : CType) (ds : DSize) (bytes : List Byte),
    explodeStream len2Short (implodeStream len2Short ct ds bytes) = .ok bytes
end

