-- ==== Sys2Proof/Laws/PerInstr.lean ====
section
/-! SUPPORT. One lemma per constructor of `Instr`: the view `Item` loses nothing, so that what is proved for the seven shapes
holds for the 343 rows. -/

namespace Sys2Proof.Laws

theorem ofNat_toNat_self {n : Nat} (x : BitVec n) : BitVec.ofNat n x.toNat = x := by simp

/-- An instruction is the instruction of its shape. -/
def ItemRoundTrip.Statement (i : Instr) : Prop := Instr.ofItem i.item = i

theorem ItemRoundTrip.hdr0Binary : ItemRoundTrip.Statement .hdr0Binary := rfl
theorem ItemRoundTrip.hdr0Ascii : ItemRoundTrip.Statement .hdr0Ascii := rfl
theorem ItemRoundTrip.hdr1Small : ItemRoundTrip.Statement .hdr1Small := rfl
theorem ItemRoundTrip.hdr1Medium : ItemRoundTrip.Statement .hdr1Medium := rfl
theorem ItemRoundTrip.hdr1Large : ItemRoundTrip.Statement .hdr1Large := rfl
theorem ItemRoundTrip.litB (byte : Byte) : ItemRoundTrip.Statement (.litB byte) := rfl
theorem ItemRoundTrip.len0 : ItemRoundTrip.Statement .len0 := rfl
theorem ItemRoundTrip.len1 : ItemRoundTrip.Statement .len1 := rfl
theorem ItemRoundTrip.len2 : ItemRoundTrip.Statement .len2 := rfl
theorem ItemRoundTrip.len3 : ItemRoundTrip.Statement .len3 := rfl
theorem ItemRoundTrip.len4 : ItemRoundTrip.Statement .len4 := rfl
theorem ItemRoundTrip.len5 : ItemRoundTrip.Statement .len5 := rfl
theorem ItemRoundTrip.len6 : ItemRoundTrip.Statement .len6 := rfl
theorem ItemRoundTrip.len7 : ItemRoundTrip.Statement .len7 := rfl
theorem ItemRoundTrip.len8 (extra : BitVec 1) : ItemRoundTrip.Statement (.len8 extra) :=
  congrArg Instr.len8 (ofNat_toNat_self extra)
theorem ItemRoundTrip.len9 (extra : BitVec 2) : ItemRoundTrip.Statement (.len9 extra) :=
  congrArg Instr.len9 (ofNat_toNat_self extra)
theorem ItemRoundTrip.len10 (extra : BitVec 3) : ItemRoundTrip.Statement (.len10 extra) :=
  congrArg Instr.len10 (ofNat_toNat_self extra)
theorem ItemRoundTrip.len11 (extra : BitVec 4) : ItemRoundTrip.Statement (.len11 extra) :=
  congrArg Instr.len11 (ofNat_toNat_self extra)
theorem ItemRoundTrip.len12 (extra : BitVec 5) : ItemRoundTrip.Statement (.len12 extra) :=
  congrArg Instr.len12 (ofNat_toNat_self extra)
theorem ItemRoundTrip.len13 (extra : BitVec 6) : ItemRoundTrip.Statement (.len13 extra) :=
  congrArg Instr.len13 (ofNat_toNat_self extra)
theorem ItemRoundTrip.len14 (extra : BitVec 7) : ItemRoundTrip.Statement (.len14 extra) :=
  congrArg Instr.len14 (ofNat_toNat_self extra)
theorem ItemRoundTrip.len15 (extra : BitVec 8) : ItemRoundTrip.Statement (.len15 extra) :=
  congrArg Instr.len15 (ofNat_toNat_self extra)
theorem ItemRoundTrip.eos : ItemRoundTrip.Statement .eos := rfl
theorem ItemRoundTrip.dist0 (low : DistLow) : ItemRoundTrip.Statement (.dist0 low) := rfl
theorem ItemRoundTrip.dist1 (low : DistLow) : ItemRoundTrip.Statement (.dist1 low) := rfl
theorem ItemRoundTrip.dist2 (low : DistLow) : ItemRoundTrip.Statement (.dist2 low) := rfl
theorem ItemRoundTrip.dist3 (low : DistLow) : ItemRoundTrip.Statement (.dist3 low) := rfl
theorem ItemRoundTrip.dist4 (low : DistLow) : ItemRoundTrip.Statement (.dist4 low) := rfl
theorem ItemRoundTrip.dist5 (low : DistLow) : ItemRoundTrip.Statement (.dist5 low) := rfl
theorem ItemRoundTrip.dist6 (low : DistLow) : ItemRoundTrip.Statement (.dist6 low) := rfl
theorem ItemRoundTrip.dist7 (low : DistLow) : ItemRoundTrip.Statement (.dist7 low) := rfl
theorem ItemRoundTrip.dist8 (low : DistLow) : ItemRoundTrip.Statement (.dist8 low) := rfl
theorem ItemRoundTrip.dist9 (low : DistLow) : ItemRoundTrip.Statement (.dist9 low) := rfl
theorem ItemRoundTrip.dist10 (low : DistLow) : ItemRoundTrip.Statement (.dist10 low) := rfl
theorem ItemRoundTrip.dist11 (low : DistLow) : ItemRoundTrip.Statement (.dist11 low) := rfl
theorem ItemRoundTrip.dist12 (low : DistLow) : ItemRoundTrip.Statement (.dist12 low) := rfl
theorem ItemRoundTrip.dist13 (low : DistLow) : ItemRoundTrip.Statement (.dist13 low) := rfl
theorem ItemRoundTrip.dist14 (low : DistLow) : ItemRoundTrip.Statement (.dist14 low) := rfl
theorem ItemRoundTrip.dist15 (low : DistLow) : ItemRoundTrip.Statement (.dist15 low) := rfl
theorem ItemRoundTrip.dist16 (low : DistLow) : ItemRoundTrip.Statement (.dist16 low) := rfl
theorem ItemRoundTrip.dist17 (low : DistLow) : ItemRoundTrip.Statement (.dist17 low) := rfl
theorem ItemRoundTrip.dist18 (low : DistLow) : ItemRoundTrip.Statement (.dist18 low) := rfl
theorem ItemRoundTrip.dist19 (low : DistLow) : ItemRoundTrip.Statement (.dist19 low) := rfl
theorem ItemRoundTrip.dist20 (low : DistLow) : ItemRoundTrip.Statement (.dist20 low) := rfl
theorem ItemRoundTrip.dist21 (low : DistLow) : ItemRoundTrip.Statement (.dist21 low) := rfl
theorem ItemRoundTrip.dist22 (low : DistLow) : ItemRoundTrip.Statement (.dist22 low) := rfl
theorem ItemRoundTrip.dist23 (low : DistLow) : ItemRoundTrip.Statement (.dist23 low) := rfl
theorem ItemRoundTrip.dist24 (low : DistLow) : ItemRoundTrip.Statement (.dist24 low) := rfl
theorem ItemRoundTrip.dist25 (low : DistLow) : ItemRoundTrip.Statement (.dist25 low) := rfl
theorem ItemRoundTrip.dist26 (low : DistLow) : ItemRoundTrip.Statement (.dist26 low) := rfl
theorem ItemRoundTrip.dist27 (low : DistLow) : ItemRoundTrip.Statement (.dist27 low) := rfl
theorem ItemRoundTrip.dist28 (low : DistLow) : ItemRoundTrip.Statement (.dist28 low) := rfl
theorem ItemRoundTrip.dist29 (low : DistLow) : ItemRoundTrip.Statement (.dist29 low) := rfl
theorem ItemRoundTrip.dist30 (low : DistLow) : ItemRoundTrip.Statement (.dist30 low) := rfl
theorem ItemRoundTrip.dist31 (low : DistLow) : ItemRoundTrip.Statement (.dist31 low) := rfl
theorem ItemRoundTrip.dist32 (low : DistLow) : ItemRoundTrip.Statement (.dist32 low) := rfl
theorem ItemRoundTrip.dist33 (low : DistLow) : ItemRoundTrip.Statement (.dist33 low) := rfl
theorem ItemRoundTrip.dist34 (low : DistLow) : ItemRoundTrip.Statement (.dist34 low) := rfl
theorem ItemRoundTrip.dist35 (low : DistLow) : ItemRoundTrip.Statement (.dist35 low) := rfl
theorem ItemRoundTrip.dist36 (low : DistLow) : ItemRoundTrip.Statement (.dist36 low) := rfl
theorem ItemRoundTrip.dist37 (low : DistLow) : ItemRoundTrip.Statement (.dist37 low) := rfl
theorem ItemRoundTrip.dist38 (low : DistLow) : ItemRoundTrip.Statement (.dist38 low) := rfl
theorem ItemRoundTrip.dist39 (low : DistLow) : ItemRoundTrip.Statement (.dist39 low) := rfl
theorem ItemRoundTrip.dist40 (low : DistLow) : ItemRoundTrip.Statement (.dist40 low) := rfl
theorem ItemRoundTrip.dist41 (low : DistLow) : ItemRoundTrip.Statement (.dist41 low) := rfl
theorem ItemRoundTrip.dist42 (low : DistLow) : ItemRoundTrip.Statement (.dist42 low) := rfl
theorem ItemRoundTrip.dist43 (low : DistLow) : ItemRoundTrip.Statement (.dist43 low) := rfl
theorem ItemRoundTrip.dist44 (low : DistLow) : ItemRoundTrip.Statement (.dist44 low) := rfl
theorem ItemRoundTrip.dist45 (low : DistLow) : ItemRoundTrip.Statement (.dist45 low) := rfl
theorem ItemRoundTrip.dist46 (low : DistLow) : ItemRoundTrip.Statement (.dist46 low) := rfl
theorem ItemRoundTrip.dist47 (low : DistLow) : ItemRoundTrip.Statement (.dist47 low) := rfl
theorem ItemRoundTrip.dist48 (low : DistLow) : ItemRoundTrip.Statement (.dist48 low) := rfl
theorem ItemRoundTrip.dist49 (low : DistLow) : ItemRoundTrip.Statement (.dist49 low) := rfl
theorem ItemRoundTrip.dist50 (low : DistLow) : ItemRoundTrip.Statement (.dist50 low) := rfl
theorem ItemRoundTrip.dist51 (low : DistLow) : ItemRoundTrip.Statement (.dist51 low) := rfl
theorem ItemRoundTrip.dist52 (low : DistLow) : ItemRoundTrip.Statement (.dist52 low) := rfl
theorem ItemRoundTrip.dist53 (low : DistLow) : ItemRoundTrip.Statement (.dist53 low) := rfl
theorem ItemRoundTrip.dist54 (low : DistLow) : ItemRoundTrip.Statement (.dist54 low) := rfl
theorem ItemRoundTrip.dist55 (low : DistLow) : ItemRoundTrip.Statement (.dist55 low) := rfl
theorem ItemRoundTrip.dist56 (low : DistLow) : ItemRoundTrip.Statement (.dist56 low) := rfl
theorem ItemRoundTrip.dist57 (low : DistLow) : ItemRoundTrip.Statement (.dist57 low) := rfl
theorem ItemRoundTrip.dist58 (low : DistLow) : ItemRoundTrip.Statement (.dist58 low) := rfl
theorem ItemRoundTrip.dist59 (low : DistLow) : ItemRoundTrip.Statement (.dist59 low) := rfl
theorem ItemRoundTrip.dist60 (low : DistLow) : ItemRoundTrip.Statement (.dist60 low) := rfl
theorem ItemRoundTrip.dist61 (low : DistLow) : ItemRoundTrip.Statement (.dist61 low) := rfl
theorem ItemRoundTrip.dist62 (low : DistLow) : ItemRoundTrip.Statement (.dist62 low) := rfl
theorem ItemRoundTrip.dist63 (low : DistLow) : ItemRoundTrip.Statement (.dist63 low) := rfl
theorem ItemRoundTrip.litA00 : ItemRoundTrip.Statement .litA00 := rfl
theorem ItemRoundTrip.litA01 : ItemRoundTrip.Statement .litA01 := rfl
theorem ItemRoundTrip.litA02 : ItemRoundTrip.Statement .litA02 := rfl
theorem ItemRoundTrip.litA03 : ItemRoundTrip.Statement .litA03 := rfl
theorem ItemRoundTrip.litA04 : ItemRoundTrip.Statement .litA04 := rfl
theorem ItemRoundTrip.litA05 : ItemRoundTrip.Statement .litA05 := rfl
theorem ItemRoundTrip.litA06 : ItemRoundTrip.Statement .litA06 := rfl
theorem ItemRoundTrip.litA07 : ItemRoundTrip.Statement .litA07 := rfl
theorem ItemRoundTrip.litA08 : ItemRoundTrip.Statement .litA08 := rfl
theorem ItemRoundTrip.litA09 : ItemRoundTrip.Statement .litA09 := rfl
theorem ItemRoundTrip.litA0A : ItemRoundTrip.Statement .litA0A := rfl
theorem ItemRoundTrip.litA0B : ItemRoundTrip.Statement .litA0B := rfl
theorem ItemRoundTrip.litA0C : ItemRoundTrip.Statement .litA0C := rfl
theorem ItemRoundTrip.litA0D : ItemRoundTrip.Statement .litA0D := rfl
theorem ItemRoundTrip.litA0E : ItemRoundTrip.Statement .litA0E := rfl
theorem ItemRoundTrip.litA0F : ItemRoundTrip.Statement .litA0F := rfl
theorem ItemRoundTrip.litA10 : ItemRoundTrip.Statement .litA10 := rfl
theorem ItemRoundTrip.litA11 : ItemRoundTrip.Statement .litA11 := rfl
theorem ItemRoundTrip.litA12 : ItemRoundTrip.Statement .litA12 := rfl
theorem ItemRoundTrip.litA13 : ItemRoundTrip.Statement .litA13 := rfl
theorem ItemRoundTrip.litA14 : ItemRoundTrip.Statement .litA14 := rfl
theorem ItemRoundTrip.litA15 : ItemRoundTrip.Statement .litA15 := rfl
theorem ItemRoundTrip.litA16 : ItemRoundTrip.Statement .litA16 := rfl
theorem ItemRoundTrip.litA17 : ItemRoundTrip.Statement .litA17 := rfl
theorem ItemRoundTrip.litA18 : ItemRoundTrip.Statement .litA18 := rfl
theorem ItemRoundTrip.litA19 : ItemRoundTrip.Statement .litA19 := rfl
theorem ItemRoundTrip.litA1A : ItemRoundTrip.Statement .litA1A := rfl
theorem ItemRoundTrip.litA1B : ItemRoundTrip.Statement .litA1B := rfl
theorem ItemRoundTrip.litA1C : ItemRoundTrip.Statement .litA1C := rfl
theorem ItemRoundTrip.litA1D : ItemRoundTrip.Statement .litA1D := rfl
theorem ItemRoundTrip.litA1E : ItemRoundTrip.Statement .litA1E := rfl
theorem ItemRoundTrip.litA1F : ItemRoundTrip.Statement .litA1F := rfl
theorem ItemRoundTrip.litA20 : ItemRoundTrip.Statement .litA20 := rfl
theorem ItemRoundTrip.litA21 : ItemRoundTrip.Statement .litA21 := rfl
theorem ItemRoundTrip.litA22 : ItemRoundTrip.Statement .litA22 := rfl
theorem ItemRoundTrip.litA23 : ItemRoundTrip.Statement .litA23 := rfl
theorem ItemRoundTrip.litA24 : ItemRoundTrip.Statement .litA24 := rfl
theorem ItemRoundTrip.litA25 : ItemRoundTrip.Statement .litA25 := rfl
theorem ItemRoundTrip.litA26 : ItemRoundTrip.Statement .litA26 := rfl
theorem ItemRoundTrip.litA27 : ItemRoundTrip.Statement .litA27 := rfl
theorem ItemRoundTrip.litA28 : ItemRoundTrip.Statement .litA28 := rfl
theorem ItemRoundTrip.litA29 : ItemRoundTrip.Statement .litA29 := rfl
theorem ItemRoundTrip.litA2A : ItemRoundTrip.Statement .litA2A := rfl
theorem ItemRoundTrip.litA2B : ItemRoundTrip.Statement .litA2B := rfl
theorem ItemRoundTrip.litA2C : ItemRoundTrip.Statement .litA2C := rfl
theorem ItemRoundTrip.litA2D : ItemRoundTrip.Statement .litA2D := rfl
theorem ItemRoundTrip.litA2E : ItemRoundTrip.Statement .litA2E := rfl
theorem ItemRoundTrip.litA2F : ItemRoundTrip.Statement .litA2F := rfl
theorem ItemRoundTrip.litA30 : ItemRoundTrip.Statement .litA30 := rfl
theorem ItemRoundTrip.litA31 : ItemRoundTrip.Statement .litA31 := rfl
theorem ItemRoundTrip.litA32 : ItemRoundTrip.Statement .litA32 := rfl
theorem ItemRoundTrip.litA33 : ItemRoundTrip.Statement .litA33 := rfl
theorem ItemRoundTrip.litA34 : ItemRoundTrip.Statement .litA34 := rfl
theorem ItemRoundTrip.litA35 : ItemRoundTrip.Statement .litA35 := rfl
theorem ItemRoundTrip.litA36 : ItemRoundTrip.Statement .litA36 := rfl
theorem ItemRoundTrip.litA37 : ItemRoundTrip.Statement .litA37 := rfl
theorem ItemRoundTrip.litA38 : ItemRoundTrip.Statement .litA38 := rfl
theorem ItemRoundTrip.litA39 : ItemRoundTrip.Statement .litA39 := rfl
theorem ItemRoundTrip.litA3A : ItemRoundTrip.Statement .litA3A := rfl
theorem ItemRoundTrip.litA3B : ItemRoundTrip.Statement .litA3B := rfl
theorem ItemRoundTrip.litA3C : ItemRoundTrip.Statement .litA3C := rfl
theorem ItemRoundTrip.litA3D : ItemRoundTrip.Statement .litA3D := rfl
theorem ItemRoundTrip.litA3E : ItemRoundTrip.Statement .litA3E := rfl
theorem ItemRoundTrip.litA3F : ItemRoundTrip.Statement .litA3F := rfl
theorem ItemRoundTrip.litA40 : ItemRoundTrip.Statement .litA40 := rfl
theorem ItemRoundTrip.litA41 : ItemRoundTrip.Statement .litA41 := rfl
theorem ItemRoundTrip.litA42 : ItemRoundTrip.Statement .litA42 := rfl
theorem ItemRoundTrip.litA43 : ItemRoundTrip.Statement .litA43 := rfl
theorem ItemRoundTrip.litA44 : ItemRoundTrip.Statement .litA44 := rfl
theorem ItemRoundTrip.litA45 : ItemRoundTrip.Statement .litA45 := rfl
theorem ItemRoundTrip.litA46 : ItemRoundTrip.Statement .litA46 := rfl
theorem ItemRoundTrip.litA47 : ItemRoundTrip.Statement .litA47 := rfl
theorem ItemRoundTrip.litA48 : ItemRoundTrip.Statement .litA48 := rfl
theorem ItemRoundTrip.litA49 : ItemRoundTrip.Statement .litA49 := rfl
theorem ItemRoundTrip.litA4A : ItemRoundTrip.Statement .litA4A := rfl
theorem ItemRoundTrip.litA4B : ItemRoundTrip.Statement .litA4B := rfl
theorem ItemRoundTrip.litA4C : ItemRoundTrip.Statement .litA4C := rfl
theorem ItemRoundTrip.litA4D : ItemRoundTrip.Statement .litA4D := rfl
theorem ItemRoundTrip.litA4E : ItemRoundTrip.Statement .litA4E := rfl
theorem ItemRoundTrip.litA4F : ItemRoundTrip.Statement .litA4F := rfl
theorem ItemRoundTrip.litA50 : ItemRoundTrip.Statement .litA50 := rfl
theorem ItemRoundTrip.litA51 : ItemRoundTrip.Statement .litA51 := rfl
theorem ItemRoundTrip.litA52 : ItemRoundTrip.Statement .litA52 := rfl
theorem ItemRoundTrip.litA53 : ItemRoundTrip.Statement .litA53 := rfl
theorem ItemRoundTrip.litA54 : ItemRoundTrip.Statement .litA54 := rfl
theorem ItemRoundTrip.litA55 : ItemRoundTrip.Statement .litA55 := rfl
theorem ItemRoundTrip.litA56 : ItemRoundTrip.Statement .litA56 := rfl
theorem ItemRoundTrip.litA57 : ItemRoundTrip.Statement .litA57 := rfl
theorem ItemRoundTrip.litA58 : ItemRoundTrip.Statement .litA58 := rfl
theorem ItemRoundTrip.litA59 : ItemRoundTrip.Statement .litA59 := rfl
theorem ItemRoundTrip.litA5A : ItemRoundTrip.Statement .litA5A := rfl
theorem ItemRoundTrip.litA5B : ItemRoundTrip.Statement .litA5B := rfl
theorem ItemRoundTrip.litA5C : ItemRoundTrip.Statement .litA5C := rfl
theorem ItemRoundTrip.litA5D : ItemRoundTrip.Statement .litA5D := rfl
theorem ItemRoundTrip.litA5E : ItemRoundTrip.Statement .litA5E := rfl
theorem ItemRoundTrip.litA5F : ItemRoundTrip.Statement .litA5F := rfl
theorem ItemRoundTrip.litA60 : ItemRoundTrip.Statement .litA60 := rfl
theorem ItemRoundTrip.litA61 : ItemRoundTrip.Statement .litA61 := rfl
theorem ItemRoundTrip.litA62 : ItemRoundTrip.Statement .litA62 := rfl
theorem ItemRoundTrip.litA63 : ItemRoundTrip.Statement .litA63 := rfl
theorem ItemRoundTrip.litA64 : ItemRoundTrip.Statement .litA64 := rfl
theorem ItemRoundTrip.litA65 : ItemRoundTrip.Statement .litA65 := rfl
theorem ItemRoundTrip.litA66 : ItemRoundTrip.Statement .litA66 := rfl
theorem ItemRoundTrip.litA67 : ItemRoundTrip.Statement .litA67 := rfl
theorem ItemRoundTrip.litA68 : ItemRoundTrip.Statement .litA68 := rfl
theorem ItemRoundTrip.litA69 : ItemRoundTrip.Statement .litA69 := rfl
theorem ItemRoundTrip.litA6A : ItemRoundTrip.Statement .litA6A := rfl
theorem ItemRoundTrip.litA6B : ItemRoundTrip.Statement .litA6B := rfl
theorem ItemRoundTrip.litA6C : ItemRoundTrip.Statement .litA6C := rfl
theorem ItemRoundTrip.litA6D : ItemRoundTrip.Statement .litA6D := rfl
theorem ItemRoundTrip.litA6E : ItemRoundTrip.Statement .litA6E := rfl
theorem ItemRoundTrip.litA6F : ItemRoundTrip.Statement .litA6F := rfl
theorem ItemRoundTrip.litA70 : ItemRoundTrip.Statement .litA70 := rfl
theorem ItemRoundTrip.litA71 : ItemRoundTrip.Statement .litA71 := rfl
theorem ItemRoundTrip.litA72 : ItemRoundTrip.Statement .litA72 := rfl
theorem ItemRoundTrip.litA73 : ItemRoundTrip.Statement .litA73 := rfl
theorem ItemRoundTrip.litA74 : ItemRoundTrip.Statement .litA74 := rfl
theorem ItemRoundTrip.litA75 : ItemRoundTrip.Statement .litA75 := rfl
theorem ItemRoundTrip.litA76 : ItemRoundTrip.Statement .litA76 := rfl
theorem ItemRoundTrip.litA77 : ItemRoundTrip.Statement .litA77 := rfl
theorem ItemRoundTrip.litA78 : ItemRoundTrip.Statement .litA78 := rfl
theorem ItemRoundTrip.litA79 : ItemRoundTrip.Statement .litA79 := rfl
theorem ItemRoundTrip.litA7A : ItemRoundTrip.Statement .litA7A := rfl
theorem ItemRoundTrip.litA7B : ItemRoundTrip.Statement .litA7B := rfl
theorem ItemRoundTrip.litA7C : ItemRoundTrip.Statement .litA7C := rfl
theorem ItemRoundTrip.litA7D : ItemRoundTrip.Statement .litA7D := rfl
theorem ItemRoundTrip.litA7E : ItemRoundTrip.Statement .litA7E := rfl
theorem ItemRoundTrip.litA7F : ItemRoundTrip.Statement .litA7F := rfl
theorem ItemRoundTrip.litA80 : ItemRoundTrip.Statement .litA80 := rfl
theorem ItemRoundTrip.litA81 : ItemRoundTrip.Statement .litA81 := rfl
theorem ItemRoundTrip.litA82 : ItemRoundTrip.Statement .litA82 := rfl
theorem ItemRoundTrip.litA83 : ItemRoundTrip.Statement .litA83 := rfl
theorem ItemRoundTrip.litA84 : ItemRoundTrip.Statement .litA84 := rfl
theorem ItemRoundTrip.litA85 : ItemRoundTrip.Statement .litA85 := rfl
theorem ItemRoundTrip.litA86 : ItemRoundTrip.Statement .litA86 := rfl
theorem ItemRoundTrip.litA87 : ItemRoundTrip.Statement .litA87 := rfl
theorem ItemRoundTrip.litA88 : ItemRoundTrip.Statement .litA88 := rfl
theorem ItemRoundTrip.litA89 : ItemRoundTrip.Statement .litA89 := rfl
theorem ItemRoundTrip.litA8A : ItemRoundTrip.Statement .litA8A := rfl
theorem ItemRoundTrip.litA8B : ItemRoundTrip.Statement .litA8B := rfl
theorem ItemRoundTrip.litA8C : ItemRoundTrip.Statement .litA8C := rfl
theorem ItemRoundTrip.litA8D : ItemRoundTrip.Statement .litA8D := rfl
theorem ItemRoundTrip.litA8E : ItemRoundTrip.Statement .litA8E := rfl
theorem ItemRoundTrip.litA8F : ItemRoundTrip.Statement .litA8F := rfl
theorem ItemRoundTrip.litA90 : ItemRoundTrip.Statement .litA90 := rfl
theorem ItemRoundTrip.litA91 : ItemRoundTrip.Statement .litA91 := rfl
theorem ItemRoundTrip.litA92 : ItemRoundTrip.Statement .litA92 := rfl
theorem ItemRoundTrip.litA93 : ItemRoundTrip.Statement .litA93 := rfl
theorem ItemRoundTrip.litA94 : ItemRoundTrip.Statement .litA94 := rfl
theorem ItemRoundTrip.litA95 : ItemRoundTrip.Statement .litA95 := rfl
theorem ItemRoundTrip.litA96 : ItemRoundTrip.Statement .litA96 := rfl
theorem ItemRoundTrip.litA97 : ItemRoundTrip.Statement .litA97 := rfl
theorem ItemRoundTrip.litA98 : ItemRoundTrip.Statement .litA98 := rfl
theorem ItemRoundTrip.litA99 : ItemRoundTrip.Statement .litA99 := rfl
theorem ItemRoundTrip.litA9A : ItemRoundTrip.Statement .litA9A := rfl
theorem ItemRoundTrip.litA9B : ItemRoundTrip.Statement .litA9B := rfl
theorem ItemRoundTrip.litA9C : ItemRoundTrip.Statement .litA9C := rfl
theorem ItemRoundTrip.litA9D : ItemRoundTrip.Statement .litA9D := rfl
theorem ItemRoundTrip.litA9E : ItemRoundTrip.Statement .litA9E := rfl
theorem ItemRoundTrip.litA9F : ItemRoundTrip.Statement .litA9F := rfl
theorem ItemRoundTrip.litAA0 : ItemRoundTrip.Statement .litAA0 := rfl
theorem ItemRoundTrip.litAA1 : ItemRoundTrip.Statement .litAA1 := rfl
theorem ItemRoundTrip.litAA2 : ItemRoundTrip.Statement .litAA2 := rfl
theorem ItemRoundTrip.litAA3 : ItemRoundTrip.Statement .litAA3 := rfl
theorem ItemRoundTrip.litAA4 : ItemRoundTrip.Statement .litAA4 := rfl
theorem ItemRoundTrip.litAA5 : ItemRoundTrip.Statement .litAA5 := rfl
theorem ItemRoundTrip.litAA6 : ItemRoundTrip.Statement .litAA6 := rfl
theorem ItemRoundTrip.litAA7 : ItemRoundTrip.Statement .litAA7 := rfl
theorem ItemRoundTrip.litAA8 : ItemRoundTrip.Statement .litAA8 := rfl
theorem ItemRoundTrip.litAA9 : ItemRoundTrip.Statement .litAA9 := rfl
theorem ItemRoundTrip.litAAA : ItemRoundTrip.Statement .litAAA := rfl
theorem ItemRoundTrip.litAAB : ItemRoundTrip.Statement .litAAB := rfl
theorem ItemRoundTrip.litAAC : ItemRoundTrip.Statement .litAAC := rfl
theorem ItemRoundTrip.litAAD : ItemRoundTrip.Statement .litAAD := rfl
theorem ItemRoundTrip.litAAE : ItemRoundTrip.Statement .litAAE := rfl
theorem ItemRoundTrip.litAAF : ItemRoundTrip.Statement .litAAF := rfl
theorem ItemRoundTrip.litAB0 : ItemRoundTrip.Statement .litAB0 := rfl
theorem ItemRoundTrip.litAB1 : ItemRoundTrip.Statement .litAB1 := rfl
theorem ItemRoundTrip.litAB2 : ItemRoundTrip.Statement .litAB2 := rfl
theorem ItemRoundTrip.litAB3 : ItemRoundTrip.Statement .litAB3 := rfl
theorem ItemRoundTrip.litAB4 : ItemRoundTrip.Statement .litAB4 := rfl
theorem ItemRoundTrip.litAB5 : ItemRoundTrip.Statement .litAB5 := rfl
theorem ItemRoundTrip.litAB6 : ItemRoundTrip.Statement .litAB6 := rfl
theorem ItemRoundTrip.litAB7 : ItemRoundTrip.Statement .litAB7 := rfl
theorem ItemRoundTrip.litAB8 : ItemRoundTrip.Statement .litAB8 := rfl
theorem ItemRoundTrip.litAB9 : ItemRoundTrip.Statement .litAB9 := rfl
theorem ItemRoundTrip.litABA : ItemRoundTrip.Statement .litABA := rfl
theorem ItemRoundTrip.litABB : ItemRoundTrip.Statement .litABB := rfl
theorem ItemRoundTrip.litABC : ItemRoundTrip.Statement .litABC := rfl
theorem ItemRoundTrip.litABD : ItemRoundTrip.Statement .litABD := rfl
theorem ItemRoundTrip.litABE : ItemRoundTrip.Statement .litABE := rfl
theorem ItemRoundTrip.litABF : ItemRoundTrip.Statement .litABF := rfl
theorem ItemRoundTrip.litAC0 : ItemRoundTrip.Statement .litAC0 := rfl
theorem ItemRoundTrip.litAC1 : ItemRoundTrip.Statement .litAC1 := rfl
theorem ItemRoundTrip.litAC2 : ItemRoundTrip.Statement .litAC2 := rfl
theorem ItemRoundTrip.litAC3 : ItemRoundTrip.Statement .litAC3 := rfl
theorem ItemRoundTrip.litAC4 : ItemRoundTrip.Statement .litAC4 := rfl
theorem ItemRoundTrip.litAC5 : ItemRoundTrip.Statement .litAC5 := rfl
theorem ItemRoundTrip.litAC6 : ItemRoundTrip.Statement .litAC6 := rfl
theorem ItemRoundTrip.litAC7 : ItemRoundTrip.Statement .litAC7 := rfl
theorem ItemRoundTrip.litAC8 : ItemRoundTrip.Statement .litAC8 := rfl
theorem ItemRoundTrip.litAC9 : ItemRoundTrip.Statement .litAC9 := rfl
theorem ItemRoundTrip.litACA : ItemRoundTrip.Statement .litACA := rfl
theorem ItemRoundTrip.litACB : ItemRoundTrip.Statement .litACB := rfl
theorem ItemRoundTrip.litACC : ItemRoundTrip.Statement .litACC := rfl
theorem ItemRoundTrip.litACD : ItemRoundTrip.Statement .litACD := rfl
theorem ItemRoundTrip.litACE : ItemRoundTrip.Statement .litACE := rfl
theorem ItemRoundTrip.litACF : ItemRoundTrip.Statement .litACF := rfl
theorem ItemRoundTrip.litAD0 : ItemRoundTrip.Statement .litAD0 := rfl
theorem ItemRoundTrip.litAD1 : ItemRoundTrip.Statement .litAD1 := rfl
theorem ItemRoundTrip.litAD2 : ItemRoundTrip.Statement .litAD2 := rfl
theorem ItemRoundTrip.litAD3 : ItemRoundTrip.Statement .litAD3 := rfl
theorem ItemRoundTrip.litAD4 : ItemRoundTrip.Statement .litAD4 := rfl
theorem ItemRoundTrip.litAD5 : ItemRoundTrip.Statement .litAD5 := rfl
theorem ItemRoundTrip.litAD6 : ItemRoundTrip.Statement .litAD6 := rfl
theorem ItemRoundTrip.litAD7 : ItemRoundTrip.Statement .litAD7 := rfl
theorem ItemRoundTrip.litAD8 : ItemRoundTrip.Statement .litAD8 := rfl
theorem ItemRoundTrip.litAD9 : ItemRoundTrip.Statement .litAD9 := rfl
theorem ItemRoundTrip.litADA : ItemRoundTrip.Statement .litADA := rfl
theorem ItemRoundTrip.litADB : ItemRoundTrip.Statement .litADB := rfl
theorem ItemRoundTrip.litADC : ItemRoundTrip.Statement .litADC := rfl
theorem ItemRoundTrip.litADD : ItemRoundTrip.Statement .litADD := rfl
theorem ItemRoundTrip.litADE : ItemRoundTrip.Statement .litADE := rfl
theorem ItemRoundTrip.litADF : ItemRoundTrip.Statement .litADF := rfl
theorem ItemRoundTrip.litAE0 : ItemRoundTrip.Statement .litAE0 := rfl
theorem ItemRoundTrip.litAE1 : ItemRoundTrip.Statement .litAE1 := rfl
theorem ItemRoundTrip.litAE2 : ItemRoundTrip.Statement .litAE2 := rfl
theorem ItemRoundTrip.litAE3 : ItemRoundTrip.Statement .litAE3 := rfl
theorem ItemRoundTrip.litAE4 : ItemRoundTrip.Statement .litAE4 := rfl
theorem ItemRoundTrip.litAE5 : ItemRoundTrip.Statement .litAE5 := rfl
theorem ItemRoundTrip.litAE6 : ItemRoundTrip.Statement .litAE6 := rfl
theorem ItemRoundTrip.litAE7 : ItemRoundTrip.Statement .litAE7 := rfl
theorem ItemRoundTrip.litAE8 : ItemRoundTrip.Statement .litAE8 := rfl
theorem ItemRoundTrip.litAE9 : ItemRoundTrip.Statement .litAE9 := rfl
theorem ItemRoundTrip.litAEA : ItemRoundTrip.Statement .litAEA := rfl
theorem ItemRoundTrip.litAEB : ItemRoundTrip.Statement .litAEB := rfl
theorem ItemRoundTrip.litAEC : ItemRoundTrip.Statement .litAEC := rfl
theorem ItemRoundTrip.litAED : ItemRoundTrip.Statement .litAED := rfl
theorem ItemRoundTrip.litAEE : ItemRoundTrip.Statement .litAEE := rfl
theorem ItemRoundTrip.litAEF : ItemRoundTrip.Statement .litAEF := rfl
theorem ItemRoundTrip.litAF0 : ItemRoundTrip.Statement .litAF0 := rfl
theorem ItemRoundTrip.litAF1 : ItemRoundTrip.Statement .litAF1 := rfl
theorem ItemRoundTrip.litAF2 : ItemRoundTrip.Statement .litAF2 := rfl
theorem ItemRoundTrip.litAF3 : ItemRoundTrip.Statement .litAF3 := rfl
theorem ItemRoundTrip.litAF4 : ItemRoundTrip.Statement .litAF4 := rfl
theorem ItemRoundTrip.litAF5 : ItemRoundTrip.Statement .litAF5 := rfl
theorem ItemRoundTrip.litAF6 : ItemRoundTrip.Statement .litAF6 := rfl
theorem ItemRoundTrip.litAF7 : ItemRoundTrip.Statement .litAF7 := rfl
theorem ItemRoundTrip.litAF8 : ItemRoundTrip.Statement .litAF8 := rfl
theorem ItemRoundTrip.litAF9 : ItemRoundTrip.Statement .litAF9 := rfl
theorem ItemRoundTrip.litAFA : ItemRoundTrip.Statement .litAFA := rfl
theorem ItemRoundTrip.litAFB : ItemRoundTrip.Statement .litAFB := rfl
theorem ItemRoundTrip.litAFC : ItemRoundTrip.Statement .litAFC := rfl
theorem ItemRoundTrip.litAFD : ItemRoundTrip.Statement .litAFD := rfl
theorem ItemRoundTrip.litAFE : ItemRoundTrip.Statement .litAFE := rfl
theorem ItemRoundTrip.litAFF : ItemRoundTrip.Statement .litAFF := rfl

end Sys2Proof.Laws
end

