-- ==== Sys2Proof/Laws/Memory.lean ====
section
/-! SUPPORT. The laws of the byte spaces: read after write, the canonical form, and what a space that covers a range of
addresses holds. -/

namespace Sys2Proof.Machine

/-! ## Read after write -/

@[simp] theorem Memory.read_nil (a : Nat) : Memory.read [] a = none := rfl

theorem Memory.read_cons (c : Host.Cell) (m : Memory) (a : Nat) :
    Memory.read (c :: m) a = if c.1 = a then some c.2 else Memory.read m a := by
  by_cases h : c.1 = a <;> simp [Memory.read, h]

@[simp] theorem Memory.read_write_same (m : Memory) (a : Nat) (b : Byte) : (m.write a b).read a = some b := by
  induction m with
  | nil => simp [Memory.write, Memory.read_cons]
  | cons c m ih =>
    simp only [Memory.write]
    split
    · simp [Memory.read_cons]
    · split
      · simp [Memory.read_cons]
      · rw [Memory.read_cons, if_neg (by omega), ih]

theorem Memory.read_write_other (m : Memory) {a x : Nat} (b : Byte) (h : x ≠ a) :
    (m.write a b).read x = m.read x := by
  induction m with
  | nil => simp [Memory.write, Memory.read_cons, h.symm]
  | cons c m ih =>
    simp only [Memory.write]
    split
    · rw [Memory.read_cons, if_neg (by simpa using h.symm)]
    · split
      · rename_i h1 h2
        rw [Memory.read_cons, Memory.read_cons, if_neg (by simpa using h.symm), if_neg (by omega)]
      · rw [Memory.read_cons, Memory.read_cons, ih]

theorem Memory.read_write (m : Memory) (a x : Nat) (b : Byte) :
    (m.write a b).read x = if x = a then some b else m.read x := by
  split
  · subst x; simp
  · exact Memory.read_write_other m b ‹_›

/-! ## The canonical form -/

theorem Memory.wf_iff (m : Memory) : m.wf = true ↔ (m.map Prod.fst).Pairwise (· < ·) := by
  induction m with
  | nil => simp [Memory.wf]
  | cons c m ih =>
    cases m with
    | nil => simp [Memory.wf]
    | cons d m =>
      simp only [Memory.wf, Bool.and_eq_true, decide_eq_true_eq, ih, List.map_cons, List.pairwise_cons]
      constructor
      · rintro ⟨hcd, hd, hm⟩
        refine ⟨?_, hd, hm⟩
        intro x hx
        rcases List.mem_cons.1 hx with rfl | hx
        · exact hcd
        · exact hcd.trans (hd x hx)
      · rintro ⟨hc, hd, hm⟩
        exact ⟨hc d.1 (by simp), hd, hm⟩

theorem Memory.mem_fst_write (m : Memory) (a : Nat) (b : Byte) (x : Nat) (h : x ∈ (m.write a b).map Prod.fst) :
    x = a ∨ x ∈ m.map Prod.fst := by
  induction m with
  | nil => simpa [Memory.write] using h
  | cons c m ih =>
    simp only [Memory.write] at h
    split at h
    · simpa using h
    · split at h
      · simp only [List.map_cons, List.mem_cons] at h ⊢
        tauto
      · simp only [List.map_cons, List.mem_cons] at h ⊢
        rcases h with h | h
        · exact .inr (.inl h)
        · rcases ih h with h | h <;> tauto

/-- A write keeps the canonical form. -/
theorem Memory.wf_write (m : Memory) (a : Nat) (b : Byte) (h : m.wf = true) : (m.write a b).wf = true := by
  rw [Memory.wf_iff] at h ⊢
  induction m with
  | nil => simp [Memory.write]
  | cons c m ih =>
    simp only [List.map_cons, List.pairwise_cons] at h
    simp only [Memory.write]
    split
    · rename_i hac
      simp only [List.map_cons, List.pairwise_cons, List.mem_cons]
      refine ⟨?_, h⟩
      rintro x (rfl | hx)
      · exact hac
      · exact hac.trans (h.1 x hx)
    · split
      · rename_i heq
        subst heq
        simpa using h
      · simp only [List.map_cons, List.pairwise_cons]
        refine ⟨?_, ih h.2⟩
        intro x hx
        rcases Memory.mem_fst_write m a b x hx with rfl | hx
        · omega
        · exact h.1 x hx

/-! ## Spaces that cover a range -/

theorem Memory.covers_wf {m : Memory} {base count : Nat} (h : m.covers base count) : m.wf = true := by
  rw [Memory.wf_iff, h]
  exact List.pairwise_lt_range'

theorem Memory.covers_length {m : Memory} {base count : Nat} (h : m.covers base count) : m.length = count := by
  have := congrArg List.length h
  simpa using this

theorem Memory.read_isSome_iff (m : Memory) (a : Nat) : (m.read a).isSome = true ↔ a ∈ m.map Prod.fst := by
  induction m with
  | nil => simp
  | cons c m ih =>
    rw [Memory.read_cons]
    by_cases h : c.1 = a
    · simp [h]
    · rw [if_neg h, ih]; simp [Ne.symm h]

/-- A space that covers a range holds a byte at each of its addresses, and only there. -/
theorem Memory.covers_read {m : Memory} {base count : Nat} (h : m.covers base count) (a : Nat) :
    (m.read a).isSome = true ↔ base ≤ a ∧ a < base + count := by
  rw [Memory.read_isSome_iff, h, List.mem_range'_1]

theorem Memory.covers_read_some {m : Memory} {base count : Nat} (h : m.covers base count) {a : Nat}
    (h1 : base ≤ a) (h2 : a < base + count) : ∃ b, m.read a = some b :=
  Option.isSome_iff_exists.1 ((Memory.covers_read h a).2 ⟨h1, h2⟩)

theorem Memory.write_end (m : Memory) (a : Nat) (b : Byte) (h : ∀ x ∈ m.map Prod.fst, x < a) :
    m.write a b = m ++ [(a, b)] := by
  induction m with
  | nil => rfl
  | cons c m ih =>
    have hc : c.1 < a := h c.1 (by simp)
    rw [Memory.write, if_neg (by omega), if_neg (by omega), ih (fun x hx => h x (by simp [hx]))]
    rfl

/-- Writing just past the range makes it one longer. -/
theorem Memory.covers_write {m : Memory} {base count : Nat} (h : m.covers base count) (b : Byte) :
    (m.write (base + count) b).covers base (count + 1) := by
  have hlt : ∀ x ∈ m.map Prod.fst, x < base + count := by
    intro x hx
    rw [h, List.mem_range'_1] at hx
    exact hx.2
  rw [Memory.write_end m _ b hlt, Memory.covers, List.map_append, h, List.range'_1_concat]
  rfl

theorem Memory.covers_ofBytes (base : Nat) (bytes : List Byte) :
    (Memory.ofBytes base bytes).covers base bytes.length := by
  induction bytes generalizing base with
  | nil => rfl
  | cons b bytes ih =>
    simp only [Memory.covers, Memory.ofBytes, List.map_cons, List.length_cons, List.range'_succ]
    exact congrArg _ (ih (base + 1))

/-- In a space from address 0 on, the next address is its length. -/
theorem Memory.covers_next {m : Memory} {count : Nat} (h : m.covers 0 count) : m.next = count := by
  rcases List.eq_nil_or_concat m with rfl | ⟨m, c, rfl⟩
  · simp only [Memory.covers, List.map_nil] at h
    cases count with
    | zero => rfl
    | succ n => simp [List.range'_succ] at h
  · rw [List.concat_eq_append] at h ⊢
    have hlen := Memory.covers_length h
    rw [Memory.covers, List.map_append, ← hlen, List.length_append, List.length_singleton, List.range'_1_concat] at h
    have hc := List.append_inj_right' h rfl
    simp only [List.map_cons, List.map_nil, List.cons.injEq, and_true] at hc
    rw [← hlen]
    simp [Memory.next, hc]

theorem Memory.covers_dropBelow {m : Memory} {base count : Nat} (h : m.covers base count) {k : Nat}
    (h1 : base ≤ k) (h2 : k ≤ base + count) : (m.dropBelow k).covers k (base + count - k) := by
  have hmap : (m.dropBelow k).map Prod.fst = (m.map Prod.fst).filter (fun a => decide (k ≤ a)) := by
    simp only [Memory.dropBelow, List.filter_map]
    rfl
  rw [Memory.covers, hmap, h]
  obtain ⟨d, rfl⟩ := Nat.exists_eq_add_of_le h1
  obtain ⟨e, he⟩ := Nat.exists_eq_add_of_le (show d ≤ count by omega)
  subst he
  rw [show base + (d + e) - (base + d) = e by omega, ← List.range'_append_1, List.filter_append]
  have hlow : (List.range' base d).filter (fun a => decide (base + d ≤ a)) = [] := by
    rw [List.filter_eq_nil_iff]
    intro a ha
    rw [List.mem_range'_1] at ha
    simp only [decide_eq_true_eq]
    omega
  have hhigh : (List.range' (base + d) e).filter (fun a => decide (base + d ≤ a)) = List.range' (base + d) e := by
    rw [List.filter_eq_self]
    intro a ha
    rw [List.mem_range'_1] at ha
    simp only [decide_eq_true_eq]
    omega
  rw [hlow, hhigh, List.nil_append]

theorem Memory.read_dropBelow (m : Memory) (k a : Nat) (h : k ≤ a) : (m.dropBelow k).read a = m.read a := by
  induction m with
  | nil => rfl
  | cons c m ih =>
    simp only [Memory.dropBelow, List.filter_cons] at ih ⊢
    split
    · rw [Memory.read_cons, Memory.read_cons, ih]
    · rename_i hk
      simp only [decide_eq_true_eq] at hk
      rw [Memory.read_cons, if_neg (by omega), ih]

theorem Memory.wf_dropBelow (m : Memory) (k : Nat) (h : m.wf = true) : (m.dropBelow k).wf = true := by
  rw [Memory.wf_iff] at h ⊢
  exact h.sublist (List.filter_sublist.map Prod.fst)

theorem Memory.wf_ofBytes (base : Nat) (bytes : List Byte) : (Memory.ofBytes base bytes).wf = true :=
  Memory.covers_wf (Memory.covers_ofBytes base bytes)

end Sys2Proof.Machine
end

