-- ==== Sys2Proof/Laws/State.lean ====
section
/-! SUPPORT. One lemma per field per update of the state, true by definition, so that no proof unfolds an update. -/

namespace Sys2Proof.Machine

variable (s : State) (b : Byte) (v : Bool) (p : Phase) (r : Reply) (e : ErrorKind) (chunk : List Byte)

/-! ## setNeedsMore -/

@[simp] theorem State.setNeedsMore_kind : (s.setNeedsMore v).kind = s.kind := rfl
@[simp] theorem State.setNeedsMore_len2Short : (s.setNeedsMore v).len2Short = s.len2Short := rfl
@[simp] theorem State.setNeedsMore_limits : (s.setNeedsMore v).limits = s.limits := rfl
@[simp] theorem State.setNeedsMore_phase : (s.setNeedsMore v).phase = s.phase := rfl
@[simp] theorem State.setNeedsMore_err : (s.setNeedsMore v).err = s.err := rfl
@[simp] theorem State.setNeedsMore_flags : (s.setNeedsMore v).flags = { s.flags with needsMore := v } := rfl
@[simp] theorem State.setNeedsMore_hdr : (s.setNeedsMore v).hdr = s.hdr := rfl
@[simp] theorem State.setNeedsMore_bc : (s.setNeedsMore v).bc = s.bc := rfl
@[simp] theorem State.setNeedsMore_ipos : (s.setNeedsMore v).ipos = s.ipos := rfl
@[simp] theorem State.setNeedsMore_input : (s.setNeedsMore v).input = s.input := rfl
@[simp] theorem State.setNeedsMore_output : (s.setNeedsMore v).output = s.output := rfl
@[simp] theorem State.setNeedsMore_win : (s.setNeedsMore v).win = s.win := rfl
@[simp] theorem State.setNeedsMore_tables : (s.setNeedsMore v).tables = s.tables := rfl
@[simp] theorem State.setNeedsMore_pending : (s.setNeedsMore v).pending = s.pending := rfl
@[simp] theorem State.setNeedsMore_activity : (s.setNeedsMore v).activity = s.activity := rfl
@[simp] theorem State.setNeedsMore_requests : (s.setNeedsMore v).requests = s.requests := rfl
@[simp] theorem State.setNeedsMore_replies : (s.setNeedsMore v).replies = s.replies := rfl
@[simp] theorem State.setNeedsMore_freeCount : (s.setNeedsMore v).freeCount = s.freeCount := rfl

/-! ## setStreamEnded -/

@[simp] theorem State.setStreamEnded_kind : (s.setStreamEnded).kind = s.kind := rfl
@[simp] theorem State.setStreamEnded_len2Short : (s.setStreamEnded).len2Short = s.len2Short := rfl
@[simp] theorem State.setStreamEnded_limits : (s.setStreamEnded).limits = s.limits := rfl
@[simp] theorem State.setStreamEnded_phase : (s.setStreamEnded).phase = s.phase := rfl
@[simp] theorem State.setStreamEnded_err : (s.setStreamEnded).err = s.err := rfl
@[simp] theorem State.setStreamEnded_flags : (s.setStreamEnded).flags = { s.flags with streamEnded := true } := rfl
@[simp] theorem State.setStreamEnded_hdr : (s.setStreamEnded).hdr = s.hdr := rfl
@[simp] theorem State.setStreamEnded_bc : (s.setStreamEnded).bc = s.bc := rfl
@[simp] theorem State.setStreamEnded_ipos : (s.setStreamEnded).ipos = s.ipos := rfl
@[simp] theorem State.setStreamEnded_input : (s.setStreamEnded).input = s.input := rfl
@[simp] theorem State.setStreamEnded_output : (s.setStreamEnded).output = s.output := rfl
@[simp] theorem State.setStreamEnded_win : (s.setStreamEnded).win = s.win := rfl
@[simp] theorem State.setStreamEnded_tables : (s.setStreamEnded).tables = s.tables := rfl
@[simp] theorem State.setStreamEnded_pending : (s.setStreamEnded).pending = s.pending := rfl
@[simp] theorem State.setStreamEnded_activity : (s.setStreamEnded).activity = s.activity := rfl
@[simp] theorem State.setStreamEnded_requests : (s.setStreamEnded).requests = s.requests := rfl
@[simp] theorem State.setStreamEnded_replies : (s.setStreamEnded).replies = s.replies := rfl
@[simp] theorem State.setStreamEnded_freeCount : (s.setStreamEnded).freeCount = s.freeCount := rfl

/-! ## setEosSeen -/

@[simp] theorem State.setEosSeen_kind : (s.setEosSeen).kind = s.kind := rfl
@[simp] theorem State.setEosSeen_len2Short : (s.setEosSeen).len2Short = s.len2Short := rfl
@[simp] theorem State.setEosSeen_limits : (s.setEosSeen).limits = s.limits := rfl
@[simp] theorem State.setEosSeen_phase : (s.setEosSeen).phase = s.phase := rfl
@[simp] theorem State.setEosSeen_err : (s.setEosSeen).err = s.err := rfl
@[simp] theorem State.setEosSeen_flags : (s.setEosSeen).flags = { s.flags with eosSeen := true } := rfl
@[simp] theorem State.setEosSeen_hdr : (s.setEosSeen).hdr = s.hdr := rfl
@[simp] theorem State.setEosSeen_bc : (s.setEosSeen).bc = s.bc := rfl
@[simp] theorem State.setEosSeen_ipos : (s.setEosSeen).ipos = s.ipos := rfl
@[simp] theorem State.setEosSeen_input : (s.setEosSeen).input = s.input := rfl
@[simp] theorem State.setEosSeen_output : (s.setEosSeen).output = s.output := rfl
@[simp] theorem State.setEosSeen_win : (s.setEosSeen).win = s.win := rfl
@[simp] theorem State.setEosSeen_tables : (s.setEosSeen).tables = s.tables := rfl
@[simp] theorem State.setEosSeen_pending : (s.setEosSeen).pending = s.pending := rfl
@[simp] theorem State.setEosSeen_activity : (s.setEosSeen).activity = s.activity := rfl
@[simp] theorem State.setEosSeen_requests : (s.setEosSeen).requests = s.requests := rfl
@[simp] theorem State.setEosSeen_replies : (s.setEosSeen).replies = s.replies := rfl
@[simp] theorem State.setEosSeen_freeCount : (s.setEosSeen).freeCount = s.freeCount := rfl

/-! ## setPhase -/

@[simp] theorem State.setPhase_kind : (s.setPhase p).kind = s.kind := rfl
@[simp] theorem State.setPhase_len2Short : (s.setPhase p).len2Short = s.len2Short := rfl
@[simp] theorem State.setPhase_limits : (s.setPhase p).limits = s.limits := rfl
@[simp] theorem State.setPhase_phase : (s.setPhase p).phase = p := rfl
@[simp] theorem State.setPhase_err : (s.setPhase p).err = s.err := rfl
@[simp] theorem State.setPhase_flags : (s.setPhase p).flags = s.flags := rfl
@[simp] theorem State.setPhase_hdr : (s.setPhase p).hdr = s.hdr := rfl
@[simp] theorem State.setPhase_bc : (s.setPhase p).bc = s.bc := rfl
@[simp] theorem State.setPhase_ipos : (s.setPhase p).ipos = s.ipos := rfl
@[simp] theorem State.setPhase_input : (s.setPhase p).input = s.input := rfl
@[simp] theorem State.setPhase_output : (s.setPhase p).output = s.output := rfl
@[simp] theorem State.setPhase_win : (s.setPhase p).win = s.win := rfl
@[simp] theorem State.setPhase_tables : (s.setPhase p).tables = s.tables := rfl
@[simp] theorem State.setPhase_pending : (s.setPhase p).pending = s.pending := rfl
@[simp] theorem State.setPhase_activity : (s.setPhase p).activity = s.activity := rfl
@[simp] theorem State.setPhase_requests : (s.setPhase p).requests = s.requests := rfl
@[simp] theorem State.setPhase_replies : (s.setPhase p).replies = s.replies := rfl
@[simp] theorem State.setPhase_freeCount : (s.setPhase p).freeCount = s.freeCount := rfl

/-! ## outAppend -/

@[simp] theorem State.outAppend_kind : (s.outAppend b).kind = s.kind := rfl
@[simp] theorem State.outAppend_len2Short : (s.outAppend b).len2Short = s.len2Short := rfl
@[simp] theorem State.outAppend_limits : (s.outAppend b).limits = s.limits := rfl
@[simp] theorem State.outAppend_phase : (s.outAppend b).phase = s.phase := rfl
@[simp] theorem State.outAppend_err : (s.outAppend b).err = s.err := rfl
@[simp] theorem State.outAppend_flags : (s.outAppend b).flags = s.flags := rfl
@[simp] theorem State.outAppend_hdr : (s.outAppend b).hdr = s.hdr := rfl
@[simp] theorem State.outAppend_bc : (s.outAppend b).bc = s.bc := rfl
@[simp] theorem State.outAppend_ipos : (s.outAppend b).ipos = s.ipos := rfl
@[simp] theorem State.outAppend_input : (s.outAppend b).input = s.input := rfl
@[simp] theorem State.outAppend_output : (s.outAppend b).output = s.output.append b := rfl
@[simp] theorem State.outAppend_win : (s.outAppend b).win = s.win := rfl
@[simp] theorem State.outAppend_tables : (s.outAppend b).tables = s.tables := rfl
@[simp] theorem State.outAppend_pending : (s.outAppend b).pending = s.pending := rfl
@[simp] theorem State.outAppend_activity : (s.outAppend b).activity = s.activity := rfl
@[simp] theorem State.outAppend_requests : (s.outAppend b).requests = s.requests := rfl
@[simp] theorem State.outAppend_replies : (s.outAppend b).replies = s.replies := rfl
@[simp] theorem State.outAppend_freeCount : (s.outAppend b).freeCount = s.freeCount := rfl

/-! ## winAppend -/

@[simp] theorem State.winAppend_kind : (s.winAppend b).kind = s.kind := rfl
@[simp] theorem State.winAppend_len2Short : (s.winAppend b).len2Short = s.len2Short := rfl
@[simp] theorem State.winAppend_limits : (s.winAppend b).limits = s.limits := rfl
@[simp] theorem State.winAppend_phase : (s.winAppend b).phase = s.phase := rfl
@[simp] theorem State.winAppend_err : (s.winAppend b).err = s.err := rfl
@[simp] theorem State.winAppend_flags : (s.winAppend b).flags = s.flags := rfl
@[simp] theorem State.winAppend_hdr : (s.winAppend b).hdr = s.hdr := rfl
@[simp] theorem State.winAppend_bc : (s.winAppend b).bc = s.bc := rfl
@[simp] theorem State.winAppend_ipos : (s.winAppend b).ipos = s.ipos := rfl
@[simp] theorem State.winAppend_input : (s.winAppend b).input = s.input := rfl
@[simp] theorem State.winAppend_output : (s.winAppend b).output = s.output := rfl
@[simp] theorem State.winAppend_win : (s.winAppend b).win = s.win.append b := rfl
@[simp] theorem State.winAppend_tables : (s.winAppend b).tables = s.tables := rfl
@[simp] theorem State.winAppend_pending : (s.winAppend b).pending = s.pending := rfl
@[simp] theorem State.winAppend_activity : (s.winAppend b).activity = s.activity := rfl
@[simp] theorem State.winAppend_requests : (s.winAppend b).requests = s.requests := rfl
@[simp] theorem State.winAppend_replies : (s.winAppend b).replies = s.replies := rfl
@[simp] theorem State.winAppend_freeCount : (s.winAppend b).freeCount = s.freeCount := rfl

/-! ## emitByte -/

@[simp] theorem State.emitByte_kind : (s.emitByte b).kind = s.kind := rfl
@[simp] theorem State.emitByte_len2Short : (s.emitByte b).len2Short = s.len2Short := rfl
@[simp] theorem State.emitByte_limits : (s.emitByte b).limits = s.limits := rfl
@[simp] theorem State.emitByte_phase : (s.emitByte b).phase = s.phase := rfl
@[simp] theorem State.emitByte_err : (s.emitByte b).err = s.err := rfl
@[simp] theorem State.emitByte_flags : (s.emitByte b).flags = s.flags := rfl
@[simp] theorem State.emitByte_hdr : (s.emitByte b).hdr = s.hdr := rfl
@[simp] theorem State.emitByte_bc : (s.emitByte b).bc = s.bc := rfl
@[simp] theorem State.emitByte_ipos : (s.emitByte b).ipos = s.ipos := rfl
@[simp] theorem State.emitByte_input : (s.emitByte b).input = s.input := rfl
@[simp] theorem State.emitByte_output : (s.emitByte b).output = s.output.append b := rfl
@[simp] theorem State.emitByte_win : (s.emitByte b).win = s.win.append b := rfl
@[simp] theorem State.emitByte_tables : (s.emitByte b).tables = s.tables := rfl
@[simp] theorem State.emitByte_pending : (s.emitByte b).pending = s.pending := rfl
@[simp] theorem State.emitByte_activity : (s.emitByte b).activity = s.activity := rfl
@[simp] theorem State.emitByte_requests : (s.emitByte b).requests = s.requests := rfl
@[simp] theorem State.emitByte_replies : (s.emitByte b).replies = s.replies := rfl
@[simp] theorem State.emitByte_freeCount : (s.emitByte b).freeCount = s.freeCount := rfl

/-! ## reply -/

@[simp] theorem State.reply_kind : (s.reply r).kind = s.kind := rfl
@[simp] theorem State.reply_len2Short : (s.reply r).len2Short = s.len2Short := rfl
@[simp] theorem State.reply_limits : (s.reply r).limits = s.limits := rfl
@[simp] theorem State.reply_phase : (s.reply r).phase = s.phase := rfl
@[simp] theorem State.reply_err : (s.reply r).err = s.err := rfl
@[simp] theorem State.reply_flags : (s.reply r).flags = s.flags := rfl
@[simp] theorem State.reply_hdr : (s.reply r).hdr = s.hdr := rfl
@[simp] theorem State.reply_bc : (s.reply r).bc = s.bc := rfl
@[simp] theorem State.reply_ipos : (s.reply r).ipos = s.ipos := rfl
@[simp] theorem State.reply_input : (s.reply r).input = s.input := rfl
@[simp] theorem State.reply_output : (s.reply r).output = s.output := rfl
@[simp] theorem State.reply_win : (s.reply r).win = s.win := rfl
@[simp] theorem State.reply_tables : (s.reply r).tables = s.tables := rfl
@[simp] theorem State.reply_pending : (s.reply r).pending = s.pending := rfl
@[simp] theorem State.reply_activity : (s.reply r).activity = s.activity := rfl
@[simp] theorem State.reply_requests : (s.reply r).requests = s.requests := rfl
@[simp] theorem State.reply_replies : (s.reply r).replies = s.replies ++ [r] := rfl
@[simp] theorem State.reply_freeCount : (s.reply r).freeCount = s.freeCount := rfl

/-! ## deliver -/

@[simp] theorem State.deliver_kind : (s.deliver).kind = s.kind := rfl
@[simp] theorem State.deliver_len2Short : (s.deliver).len2Short = s.len2Short := rfl
@[simp] theorem State.deliver_limits : (s.deliver).limits = s.limits := rfl
@[simp] theorem State.deliver_phase : (s.deliver).phase = s.phase := rfl
@[simp] theorem State.deliver_err : (s.deliver).err = s.err := rfl
@[simp] theorem State.deliver_flags : (s.deliver).flags = s.flags := rfl
@[simp] theorem State.deliver_hdr : (s.deliver).hdr = s.hdr := rfl
@[simp] theorem State.deliver_bc : (s.deliver).bc = s.bc := rfl
@[simp] theorem State.deliver_ipos : (s.deliver).ipos = s.ipos := rfl
@[simp] theorem State.deliver_input : (s.deliver).input = s.input.dropTo s.consumedBytes := rfl
@[simp] theorem State.deliver_output : (s.deliver).output = { s.output with mem := [] } := rfl
@[simp] theorem State.deliver_win : (s.deliver).win = s.win := rfl
@[simp] theorem State.deliver_tables : (s.deliver).tables = s.tables := rfl
@[simp] theorem State.deliver_pending : (s.deliver).pending = none := rfl
@[simp] theorem State.deliver_activity : (s.deliver).activity = .idle := rfl
@[simp] theorem State.deliver_requests : (s.deliver).requests = s.requests := rfl
@[simp] theorem State.deliver_replies : (s.deliver).replies = s.replies ++ [{ producedOutput := s.output.mem.bytes, error := none }] := rfl
@[simp] theorem State.deliver_freeCount : (s.deliver).freeCount = s.freeCount := rfl

/-! ## stopForInput -/

@[simp] theorem State.stopForInput_kind : (s.stopForInput).kind = s.kind := rfl
@[simp] theorem State.stopForInput_len2Short : (s.stopForInput).len2Short = s.len2Short := rfl
@[simp] theorem State.stopForInput_limits : (s.stopForInput).limits = s.limits := rfl
@[simp] theorem State.stopForInput_phase : (s.stopForInput).phase = s.phase := rfl
@[simp] theorem State.stopForInput_err : (s.stopForInput).err = s.err := rfl
@[simp] theorem State.stopForInput_flags : (s.stopForInput).flags = { s.flags with needsMore := true } := rfl
@[simp] theorem State.stopForInput_hdr : (s.stopForInput).hdr = s.hdr := rfl
@[simp] theorem State.stopForInput_bc : (s.stopForInput).bc = s.bc := rfl
@[simp] theorem State.stopForInput_ipos : (s.stopForInput).ipos = s.ipos := rfl
@[simp] theorem State.stopForInput_input : (s.stopForInput).input = s.input.dropTo s.consumedBytes := rfl
@[simp] theorem State.stopForInput_output : (s.stopForInput).output = { s.output with mem := [] } := rfl
@[simp] theorem State.stopForInput_win : (s.stopForInput).win = s.win := rfl
@[simp] theorem State.stopForInput_tables : (s.stopForInput).tables = s.tables := rfl
@[simp] theorem State.stopForInput_pending : (s.stopForInput).pending = none := rfl
@[simp] theorem State.stopForInput_activity : (s.stopForInput).activity = .idle := rfl
@[simp] theorem State.stopForInput_requests : (s.stopForInput).requests = s.requests := rfl
@[simp] theorem State.stopForInput_replies : (s.stopForInput).replies = s.replies ++ [{ producedOutput := s.output.mem.bytes, error := none }] := rfl
@[simp] theorem State.stopForInput_freeCount : (s.stopForInput).freeCount = s.freeCount := rfl

/-! ## beginFeed -/

@[simp] theorem State.beginFeed_kind : (s.beginFeed chunk).kind = s.kind := rfl
@[simp] theorem State.beginFeed_len2Short : (s.beginFeed chunk).len2Short = s.len2Short := rfl
@[simp] theorem State.beginFeed_limits : (s.beginFeed chunk).limits = s.limits := rfl
@[simp] theorem State.beginFeed_phase : (s.beginFeed chunk).phase = s.phase := rfl
@[simp] theorem State.beginFeed_err : (s.beginFeed chunk).err = s.err := rfl
@[simp] theorem State.beginFeed_flags : (s.beginFeed chunk).flags = { s.flags with needsMore := false } := rfl
@[simp] theorem State.beginFeed_hdr : (s.beginFeed chunk).hdr = s.hdr := rfl
@[simp] theorem State.beginFeed_bc : (s.beginFeed chunk).bc = s.bc := rfl
@[simp] theorem State.beginFeed_ipos : (s.beginFeed chunk).ipos = s.ipos := rfl
@[simp] theorem State.beginFeed_input : (s.beginFeed chunk).input = s.input.receive chunk := rfl
@[simp] theorem State.beginFeed_output : (s.beginFeed chunk).output = s.output := rfl
@[simp] theorem State.beginFeed_win : (s.beginFeed chunk).win = s.win := rfl
@[simp] theorem State.beginFeed_tables : (s.beginFeed chunk).tables = s.tables := rfl
@[simp] theorem State.beginFeed_pending : (s.beginFeed chunk).pending = s.pending := rfl
@[simp] theorem State.beginFeed_activity : (s.beginFeed chunk).activity = .feed := rfl
@[simp] theorem State.beginFeed_requests : (s.beginFeed chunk).requests = s.requests := rfl
@[simp] theorem State.beginFeed_replies : (s.beginFeed chunk).replies = s.replies := rfl
@[simp] theorem State.beginFeed_freeCount : (s.beginFeed chunk).freeCount = s.freeCount := rfl

/-! ## beginFinish -/

@[simp] theorem State.beginFinish_kind : (s.beginFinish).kind = s.kind := rfl
@[simp] theorem State.beginFinish_len2Short : (s.beginFinish).len2Short = s.len2Short := rfl
@[simp] theorem State.beginFinish_limits : (s.beginFinish).limits = s.limits := rfl
@[simp] theorem State.beginFinish_phase : (s.beginFinish).phase = s.phase := rfl
@[simp] theorem State.beginFinish_err : (s.beginFinish).err = s.err := rfl
@[simp] theorem State.beginFinish_flags : (s.beginFinish).flags = { s.flags with needsMore := false, streamEnded := true } := rfl
@[simp] theorem State.beginFinish_hdr : (s.beginFinish).hdr = s.hdr := rfl
@[simp] theorem State.beginFinish_bc : (s.beginFinish).bc = s.bc := rfl
@[simp] theorem State.beginFinish_ipos : (s.beginFinish).ipos = s.ipos := rfl
@[simp] theorem State.beginFinish_input : (s.beginFinish).input = s.input := rfl
@[simp] theorem State.beginFinish_output : (s.beginFinish).output = s.output := rfl
@[simp] theorem State.beginFinish_win : (s.beginFinish).win = s.win := rfl
@[simp] theorem State.beginFinish_tables : (s.beginFinish).tables = s.tables := rfl
@[simp] theorem State.beginFinish_pending : (s.beginFinish).pending = s.pending := rfl
@[simp] theorem State.beginFinish_activity : (s.beginFinish).activity = .finish := rfl
@[simp] theorem State.beginFinish_requests : (s.beginFinish).requests = s.requests := rfl
@[simp] theorem State.beginFinish_replies : (s.beginFinish).replies = s.replies := rfl
@[simp] theorem State.beginFinish_freeCount : (s.beginFinish).freeCount = s.freeCount := rfl

/-! ## raise (R313) -/

@[simp] theorem raise_kind : (raise e s).kind = s.kind := rfl
@[simp] theorem raise_len2Short : (raise e s).len2Short = s.len2Short := rfl
@[simp] theorem raise_limits : (raise e s).limits = s.limits := rfl
@[simp] theorem raise_phase : (raise e s).phase = .failed := rfl
@[simp] theorem raise_err : (raise e s).err = some e := rfl
@[simp] theorem raise_activity : (raise e s).activity = .idle := rfl
@[simp] theorem raise_pending : (raise e s).pending = none := rfl
@[simp] theorem raise_requests : (raise e s).requests = s.requests := rfl
@[simp] theorem raise_replies : (raise e s).replies = s.replies ++ [{ producedOutput := [], error := some e }] := rfl
@[simp] theorem raise_freeCount : (raise e s).freeCount = s.freeCount + 1 := rfl
@[simp] theorem raise_needsMore : (raise e s).flags.needsMore = false := rfl
@[simp] theorem raise_outMem : (raise e s).output.mem = [] := rfl

/-! ## The parts -/

variable (w : Window) (o : Output) (i : Input)

@[simp] theorem Window.append_len : (w.append b).len = w.len + 1 := rfl
@[simp] theorem Output.append_count : (o.append b).count = o.count + 1 := rfl
@[simp] theorem Input.append_total : (i.append b).total = i.total + 1 := rfl
@[simp] theorem Input.append_base : (i.append b).base = i.base := rfl
@[simp] theorem Input.dropTo_total (k : Nat) : (i.dropTo k).total = i.total := rfl
@[simp] theorem Input.dropTo_base (k : Nat) : (i.dropTo k).base = min i.total (max i.base k) := rfl

end Sys2Proof.Machine
end

