-- ==== Sys2Proof/Laws/Exec.lean ====
section
/-! SUPPORT. The 343 arms of `exec` by shape: what is proved of the seven shapes holds of every row. -/

namespace Sys2Proof.Machine

/-- The meaning of a shape. -/
def execItem (item : Item) (s : State) : Result :=
  match item with
  | .hdr0 ct => acceptHdr0 ct s
  | .hdr1 ds => acceptHdr1 ds s
  | .litB b => literal .binary 9 b s
  | .litA b => asciiLiteral b s
  | .len bucket extra => if bucket = 15 ∧ extra = 255 then endOfStream s else lengthPart bucket extra s
  | .eos => endOfStream s
  | .dist index low => distancePart index low s

/-- Every arm is the meaning of its shape. -/
theorem exec_eq_execItem (i : Instr) (s : State) : exec i s = execItem i.item s := by
  cases i
  case len15 extra =>
    show (if extra = 0xFF then endOfStream s else lengthPart 15 extra.toNat s) = _
    by_cases h : extra = 0xFF
    · subst h; rfl
    · have hn : extra.toNat ≠ 255 := fun hn => h (BitVec.eq_of_toNat_eq hn)
      rw [if_neg h]
      exact (if_neg (fun hc : 15 = 15 ∧ extra.toNat = 255 => hn hc.2)).symm
  all_goals rfl

set_option maxRecDepth 10000 in
theorem item_litA (b : Byte) : (Instr.litA b).item = .litA b := by
  obtain ⟨⟨n, hn⟩⟩ := b
  have h : ∀ n : Fin 256, (Instr.litA (BitVec.ofFin n)).item = .litA (BitVec.ofFin n) := by decide
  exact h ⟨n, hn⟩

theorem item_dist {index : Nat} (h : index < 64) (low : DistLow) : (Instr.dist index low).item = .dist index low := by
  interval_cases index <;> rfl

theorem item_len {bucket extra : Nat} (h : bucket < 16) (he : extra < 2 ^ romAt exLenBits bucket) :
    (Instr.len bucket extra).item = .len bucket extra := by
  interval_cases bucket <;> simp [romAt, exLenBits] at he <;> simp [Instr.len, Instr.item] <;> omega

theorem item_hdr0 (ct : CType) : (Instr.hdr0 ct).item = .hdr0 ct := by cases ct <;> rfl

theorem item_hdr1 (ds : DSize) : (Instr.hdr1 ds).item = .hdr1 ds := by cases ds <;> rfl

/-- The 256 rows of LIT.A. -/
theorem exec_litA (b : Byte) (s : State) : exec (Instr.litA b) s = asciiLiteral b s := by
  rw [exec_eq_execItem, item_litA]; rfl

/-- The 64 rows of DIST. -/
theorem exec_dist {index : Nat} (h : index < 64) (low : DistLow) (s : State) :
    exec (Instr.dist index low) s = distancePart index low s := by
  rw [exec_eq_execItem, item_dist h]; rfl

/-- The 16 rows of LEN, but for the bits that are EOS. -/
theorem exec_len {bucket extra : Nat} (h : bucket < 16) (he : extra < 2 ^ romAt exLenBits bucket)
    (hne : ¬(bucket = 15 ∧ extra = 255)) (s : State) : exec (Instr.len bucket extra) s = lengthPart bucket extra s := by
  rw [exec_eq_execItem, item_len h he]
  exact if_neg hne

theorem exec_hdr0 (ct : CType) (s : State) : exec (Instr.hdr0 ct) s = acceptHdr0 ct s := by cases ct <;> rfl

theorem exec_hdr1 (ds : DSize) (s : State) : exec (Instr.hdr1 ds) s = acceptHdr1 ds s := by cases ds <;> rfl

/-- Every instruction is the instruction of its shape. -/
theorem ofItem_item (i : Instr) : Instr.ofItem i.item = i := by
  cases i
  case len8 e => exact Laws.ItemRoundTrip.len8 e
  case len9 e => exact Laws.ItemRoundTrip.len9 e
  case len10 e => exact Laws.ItemRoundTrip.len10 e
  case len11 e => exact Laws.ItemRoundTrip.len11 e
  case len12 e => exact Laws.ItemRoundTrip.len12 e
  case len13 e => exact Laws.ItemRoundTrip.len13 e
  case len14 e => exact Laws.ItemRoundTrip.len14 e
  case len15 e => exact Laws.ItemRoundTrip.len15 e
  all_goals rfl

end Sys2Proof.Machine
end

