-- ==== Sys2Proof/Laws/Tables.lean ====
section
/-! SUPPORT. The generators make the tables the spec prints: the ASCII tables (R174 against R176 to R180) and the length and
distance lookup tables (R156, R157). -/

namespace Sys2Proof.Machine

theorem fillSlots_len : fillSlots lenBits lenCode = lenLutRom := by decide +kernel

theorem fillSlots_dist : fillSlots distBits distCode = distLutRom := by decide +kernel

theorem generateAsciiTables_eq : generateAsciiTables = asciiTables := by decide +kernel

end Sys2Proof.Machine
end

