-- ==== Sys2Proof/Laws/Decode.lean ====
section
/-! SUPPORT. What the decoder reads: bit fields, the size of a decoded item, and its operands' ranges, with the tables of the
format. -/

namespace Sys2Proof

open Machine

/-! ## Bit fields -/

theorem bitsValue_lt (bs : Bits) : bitsValue bs < 2 ^ bs.length := by
  induction bs with
  | nil => simp [bitsValue]
  | cons b bs ih =>
    simp only [bitsValue, List.length_cons, Nat.pow_succ]
    cases b <;> simp <;> omega

theorem natBits_length (n v : Nat) : (natBits n v).length = n := by
  induction n generalizing v with
  | zero => rfl
  | succ n ih => simp [natBits, ih]

theorem bitsValue_natBits (n v : Nat) : bitsValue (natBits n v) = v % 2 ^ n := by
  induction n generalizing v with
  | zero => simp [natBits, bitsValue, Nat.mod_one]
  | succ n ih =>
    simp only [natBits, bitsValue, ih]
    rw [Nat.pow_succ', Nat.mod_mul]
    rcases Nat.mod_two_eq_zero_or_one v with h | h <;> simp [h]

theorem natBits_bitsValue (bs : Bits) : natBits bs.length (bitsValue bs) = bs := by
  induction bs with
  | nil => rfl
  | cons b bs ih =>
    simp only [List.length_cons, natBits, bitsValue]
    have h1 : (b.toNat + 2 * bitsValue bs) / 2 = bitsValue bs := by cases b <;> simp; omega
    have h2 : ((b.toNat + 2 * bitsValue bs) % 2 == 1) = b := by cases b <;> simp
    rw [h1, h2, ih]

theorem skipBits_eq_some {n : Nat} {bs rest : Bits} :
    skipBits n bs = some rest ↔ n ≤ bs.length ∧ rest = bs.drop n := by
  unfold skipBits
  split <;> simp_all [eq_comm]

theorem takeBits_eq_some {n v : Nat} {bs rest : Bits} :
    takeBits n bs = some (v, rest) ↔ n ≤ bs.length ∧ v = bitsValue (bs.take n) ∧ rest = bs.drop n := by
  unfold takeBits
  split <;> simp_all [eq_comm]

theorem skipBits_length {n : Nat} {bs rest : Bits} (h : skipBits n bs = some rest) : bs.length = n + rest.length := by
  obtain ⟨hn, rfl⟩ := skipBits_eq_some.1 h
  simp; omega

theorem takeBits_length {n v : Nat} {bs rest : Bits} (h : takeBits n bs = some (v, rest)) :
    bs.length = n + rest.length := by
  obtain ⟨hn, -, rfl⟩ := takeBits_eq_some.1 h
  simp; omega

theorem takeBits_lt {n v : Nat} {bs rest : Bits} (h : takeBits n bs = some (v, rest)) : v < 2 ^ n := by
  obtain ⟨hn, rfl, -⟩ := takeBits_eq_some.1 h
  exact (bitsValue_lt _).trans_le (Nat.pow_le_pow_right (by omega) (by simp))

/-- The bits before the rest are the field's value. -/
theorem takeBits_natBits {n v : Nat} {bs rest : Bits} (h : takeBits n bs = some (v, rest)) : natBits n v ++ rest = bs := by
  obtain ⟨hn, rfl, rfl⟩ := takeBits_eq_some.1 h
  have := natBits_bitsValue (bs.take n)
  rw [List.length_take, Nat.min_eq_left hn] at this
  rw [this, List.take_append_drop]

/-! ## The ASCII tables: the bits skipped in all are the code's length (R182) -/

/-- In a table whose index stands after `base` code bits, a filled slot's `CHBITS` is the rest of its code. -/
def slotSizesOk (table : List (Option Byte)) (base : Nat) : Bool :=
  table.all fun slot =>
    match slot with
    | none => true
    | some v => (base == 0 && v == 0xFF) || base + (asciiTables.chBits.getD v.toNat 0).toNat == romAt chBitsAsc v.toNat

set_option maxRecDepth 20000 in
theorem slotSizes_t2c34 : slotSizesOk asciiTables.t2c34 0 = true := by decide +kernel

set_option maxRecDepth 20000 in
theorem slotSizes_t2d34 : slotSizesOk asciiTables.t2d34 4 = true := by decide +kernel

set_option maxRecDepth 20000 in
theorem slotSizes_t2e34 : slotSizesOk asciiTables.t2e34 6 = true := by decide +kernel

set_option maxRecDepth 20000 in
theorem slotSizes_t2eb4 : slotSizesOk asciiTables.t2eb4 8 = true := by decide +kernel

theorem slotSize {table : List (Option Byte)} {base i : Nat} {v : Byte} (h : slotSizesOk table base = true)
    (hi : table.getD i none = some v) (hv : ¬(base = 0 ∧ v = 0xFF)) :
    base + (asciiTables.chBits.getD v.toNat 0).toNat = romAt chBitsAsc v.toNat := by
  have hlt : i < table.length := by
    by_contra hge
    rw [List.getD_eq_default _ _ (by omega)] at hi
    cases hi
  rw [List.getD_eq_getElem _ _ hlt] at hi
  have hmem := List.all_eq_true.1 h _ (List.getElem_mem hlt)
  rw [hi] at hmem
  simp only [Bool.or_eq_true, Bool.and_eq_true, beq_iff_eq] at hmem
  rcases hmem with hmem | hmem
  · exact absurd hmem hv
  · exact hmem

theorem finishLiteral_size {slot : Option Byte} {bs rest : Bits} {v : Byte}
    (h : finishLiteral asciiTables slot bs = .literal v rest) :
    slot = some v ∧ bs.length = (asciiTables.chBits.getD v.toNat 0).toNat + rest.length := by
  unfold finishLiteral at h
  split at h
  · cases h
  · split at h
    · cases h
    · rename_i hs
      cases h
      exact ⟨rfl, skipBits_length hs⟩

theorem secondaryLiteral_size {table : List (Option Byte)} {skip width : Nat} {bs rest : Bits} {v : Byte}
    (hok : slotSizesOk table skip = true) (h0 : skip ≠ 0)
    (h : secondaryLiteral asciiTables table skip width bs = .literal v rest) :
    bs.length = romAt chBitsAsc v.toNat + rest.length := by
  unfold secondaryLiteral at h
  split at h
  · cases h
  · rename_i hs
    obtain ⟨hslot, hlen⟩ := finishLiteral_size h
    have := slotSize hok hslot (fun hc => h0 hc.1)
    have := skipBits_length hs
    omega

/-- A decoded literal has consumed exactly its code's bits (R182). -/
theorem decodeAsciiLiteral_size {bs rest : Bits} {v : Byte}
    (h : decodeAsciiLiteral asciiTables bs = .literal v rest) :
    bs.length = romAt chBitsAsc v.toNat + rest.length := by
  unfold decodeAsciiLiteral at h
  simp only at h
  split at h
  · exact secondaryLiteral_size slotSizes_t2eb4 (by decide) h
  · split at h
    · split at h
      · exact secondaryLiteral_size slotSizes_t2e34 (by decide) h
      · exact secondaryLiteral_size slotSizes_t2d34 (by decide) h
    · rename_i hne
      obtain ⟨hslot, hlen⟩ := finishLiteral_size h
      have := slotSize slotSizes_t2c34 hslot (fun hc => hne (by rw [hslot, hc.2]))
      omega

/-! ## The decoded item -/

/-- The operands of an item are in the ranges its formats give (R96, R98, R100). -/
def Item.inRange : Item → Prop
  | .len bucket extra => bucket < 16 ∧ extra < 2 ^ romAt exLenBits bucket ∧ ¬(bucket = 15 ∧ extra = 255)
  | .dist index _ => index < 64
  | _ => True

theorem lengthItem_spec {bucket extra : Nat} {rest : Bits} {i : Instr} {rest' : Bits} (hb : bucket < 16)
    (he : extra < 2 ^ romAt exLenBits bucket) (h : lengthItem bucket extra rest = .item i rest') :
    rest' = rest ∧ i.item.inRange ∧ itemBits i.item = 1 + romAt lenBits bucket + romAt exLenBits bucket
      ∧ (i = .eos ∨ i = .len bucket extra ∧ i.item = .len bucket extra) := by
  unfold lengthItem at h
  simp only at h
  split at h
  · cases h
    rename_i hs
    refine ⟨rfl, trivial, ?_, .inl rfl⟩
    have : bucket = 15 := by
      interval_cases bucket <;> simp [lenBase, exLenBits, Config.eosSym, romAt] at hs he ⊢ <;> omega
    subst this
    rfl
  · split at h
    · cases h
      rename_i hne hlt
      have hi := item_len hb he
      refine ⟨rfl, ?_, ?_, .inr ⟨rfl, hi⟩⟩
      · rw [hi]
        refine ⟨hb, he, ?_⟩
        rintro ⟨rfl, rfl⟩
        exact hne rfl
      · rw [hi]; rfl
    · cases h

theorem lowWidth_lowOf (w : DistWidth) (v : Nat) : lowWidth (lowOf w v) = w := by cases w <;> rfl

/-- What stands in the stream before the rest is as long as the item, and the item can stand at the place. -/
theorem decode_spec {ct : CType} {p : Place} {bs rest : Bits} {i : Instr}
    (h : decode (explodeTables ct) p bs = .item i rest) (hp : ∀ c, p = .symbol c → c = ct) :
    bs.length = itemBits i.item + rest.length ∧ i.item.inRange ∧
      (match p with
        | .hdr0 => ∃ c, i.item = .hdr0 c
        | .hdr1 => ∃ d, i.item = .hdr1 d
        | .symbol .binary => (∃ b, i.item = .litB b) ∨ (∃ k e, i.item = .len k e) ∨ i.item = .eos
        | .symbol .ascii => (∃ b, i.item = .litA b) ∨ (∃ k e, i.item = .len k e) ∨ i.item = .eos
        | .distance w => ∃ c low, i.item = .dist c low ∧ lowWidth low = w) := by
  cases p with
  | hdr0 =>
    simp only [decode, decodeHdr0] at h
    split at h
    · cases h
    · rename_i ht
      split at h
      · cases h
      · cases h
        rw [item_hdr0]
        exact ⟨takeBits_length ht, trivial, _, rfl⟩
  | hdr1 =>
    simp only [decode, decodeHdr1] at h
    split at h
    · cases h
    · rename_i ht
      split at h
      · cases h
      · cases h
        rw [item_hdr1]
        exact ⟨takeBits_length ht, trivial, _, rfl⟩
  | symbol c =>
    obtain rfl := hp c rfl
    simp only [decode, decodeSymbol] at h
    split at h
    · cases h
    · rename_i d bs1 ht1
      have hl1 := takeBits_length ht1
      split at h
      · cases c with
        | binary =>
          simp only [decodeLitB] at h
          split at h
          · cases h
          · rename_i ht
            cases h
            have := takeBits_length ht
            exact ⟨by simp only [Instr.item, itemBits]; omega, trivial, .inl ⟨_, rfl⟩⟩
        | ascii =>
          simp only [decodeLitA, explodeTables] at h
          split at h
          · rename_i v rest' hd
            cases h
            have := decodeAsciiLiteral_size hd
            rw [item_litA]
            exact ⟨by simp only [itemBits]; omega, trivial, .inl ⟨_, rfl⟩⟩
          · cases h
          · cases h
      · simp only [decodeLength, explodeTables] at h
        split at h
        · cases h
        · split at h
          · cases h
          · rename_i hs
            split at h
            · cases h
            · rename_i ht
              have hl2 := skipBits_length hs
              have hl3 := takeBits_length ht
              obtain ⟨rfl, hr, hsz, hshape⟩ := lengthItem_spec (BitVec.isLt _) (takeBits_lt ht) h
              refine ⟨by rw [hsz]; omega, hr, ?_⟩
              rcases hshape with rfl | ⟨-, hi⟩
              · cases c <;> exact .inr (.inr rfl)
              · cases c <;> exact .inr (.inl ⟨_, _, hi⟩)
  | distance w =>
    simp only [decode, decodeDistance, explodeTables] at h
    split at h
    · cases h
    · split at h
      · cases h
      · rename_i hs
        split at h
        · cases h
        · rename_i ht
          cases h
          have hl2 := skipBits_length hs
          have hl3 := takeBits_length ht
          rw [item_dist (BitVec.isLt _)]
          refine ⟨?_, BitVec.isLt _, _, _, rfl, lowWidth_lowOf _ _⟩
          simp only [itemBits, lowWidth_lowOf]
          omega

end Sys2Proof
end

