-- ==== Sys2Proof/Laws/Ops.lean ====
section
/-! SUPPORT. One specification lemma per shared operation: what each does to the byte spaces and to the rest of the state, so
that no later proof unfolds it. -/

namespace Sys2Proof.Machine

/-! ## Where an item is due -/

theorem HeaderByteDue.place {first : Option CType} {s : State} (h : HeaderByteDue first s) :
    s.place = some (match first with | none => .hdr0 | some _ => .hdr1) := by
  have ht : ¬ s.input.total < Config.hdrMinAvail := by have := h.enough; omega
  cases first <;> simp [State.place, h.kind, h.activity, h.eos, h.phase, h.ctype, ht]

theorem SymbolDue.place {ct : CType} {s : State} (h : SymbolDue ct s) : s.place = some (.symbol ct) := by
  simp [State.place, h.kind, h.activity, h.eos, h.phase, h.pending, h.ctype]

theorem DistanceDue.place {m : PendingMatch} {ds : DSize} {s : State} (h : DistanceDue m ds s) :
    s.place = some (.distance (distWidth s.len2Short m.length ds)) := by
  simp [State.place, h.kind, h.activity, h.eos, h.phase, h.pending, h.dsize]

/-- Where `place` answers, an EXPLODE engine is inside a `feed` before EOS. -/
theorem place_some {s : State} {p : Place} (h : s.place = some p) :
    s.kind = some .explode ∧ s.activity = .feed ∧ s.flags.eosSeen = false := by
  unfold State.place at h
  split at h
  · assumption
  · cases h

theorem place_hdr0 {s : State} (h : s.place = some .hdr0) : HeaderByteDue none s := by
  obtain ⟨hk, ha, he⟩ := place_some h
  simp only [State.place, hk, ha, he] at h
  cases hp : s.phase <;> rw [hp] at h
  · by_cases ht : s.input.total < Config.hdrMinAvail
    · simp [ht] at h
    · cases hc : s.hdr.ctype with
      | none => exact ⟨hk, ha, he, hp, by omega, hc⟩
      | some c => simp [ht, hc] at h
  · cases hm : s.pending <;> simp [hm] at h
  all_goals simp at h

theorem place_hdr1 {s : State} (h : s.place = some .hdr1) : ∃ ct, HeaderByteDue (some ct) s := by
  obtain ⟨hk, ha, he⟩ := place_some h
  simp only [State.place, hk, ha, he] at h
  cases hp : s.phase <;> rw [hp] at h
  · by_cases ht : s.input.total < Config.hdrMinAvail
    · simp [ht] at h
    · cases hc : s.hdr.ctype with
      | none => simp [ht, hc] at h
      | some c => exact ⟨c, hk, ha, he, hp, by omega, hc⟩
  · cases hm : s.pending <;> simp [hm] at h
  all_goals simp at h

theorem place_symbol {s : State} {ct : CType} (h : s.place = some (.symbol ct)) : SymbolDue ct s := by
  obtain ⟨hk, ha, he⟩ := place_some h
  simp only [State.place, hk, ha, he] at h
  cases hp : s.phase <;> rw [hp] at h
  · by_cases ht : s.input.total < Config.hdrMinAvail
    · simp [ht] at h
    · cases hc : s.hdr.ctype <;> simp [ht, hc] at h
  · cases hm : s.pending with
    | none =>
      cases hc : s.hdr.ctype with
      | none => simp [hm, hc] at h
      | some c => simp [hm, hc] at h; subst h; exact ⟨hk, ha, he, hp, hm, hc⟩
    | some m => simp [hm] at h
  all_goals simp at h

theorem place_distance {s : State} {w : DistWidth} (h : s.place = some (.distance w)) :
    ∃ m ds, DistanceDue m ds s ∧ w = distWidth s.len2Short m.length ds := by
  obtain ⟨hk, ha, he⟩ := place_some h
  simp only [State.place, hk, ha, he] at h
  cases hp : s.phase <;> rw [hp] at h
  · by_cases ht : s.input.total < Config.hdrMinAvail
    · simp [ht] at h
    · cases hc : s.hdr.ctype <;> simp [ht, hc] at h
  · cases hm : s.pending with
    | none => simp [hm] at h
    | some m =>
      cases hc : s.hdr.dsize with
      | none => simp [hm, hc] at h
      | some ds => simp [hm, hc] at h; exact ⟨m, ds, ⟨hk, ha, he, hp, hm, hc⟩, h.symm⟩
  all_goals simp at h

/-! ## The byte spaces under each operation -/

/-- `SpacesOk` reads the three spaces only. -/
theorem SpacesOk.congr {s t : State} (h : SpacesOk s) (hw : t.win = s.win) (hi : t.input = s.input)
    (ho : t.output = s.output) : SpacesOk t := by
  constructor
  · rw [hw]; exact h.window
  · rw [hi]; exact h.base_le
  · rw [hi]; exact h.input
  · rw [ho]; exact h.output

theorem SpacesOk.next {s : State} (h : SpacesOk s) : s.output.mem.next = s.output.mem.length :=
  Memory.covers_next h.output

theorem Memory.length_write_next {m : Memory} (h : m.covers 0 m.length) (b : Byte) :
    (m.write m.next b).length = m.length + 1 := by
  rw [Memory.covers_next h]
  exact Memory.covers_length (by simpa using Memory.covers_write h b)

theorem Memory.covers_write_next {m : Memory} (h : m.covers 0 m.length) (b : Byte) :
    (m.write m.next b).covers 0 (m.write m.next b).length := by
  rw [Memory.length_write_next h, Memory.covers_next h]
  simpa using Memory.covers_write h b

theorem Memory.bytes_write_next {m : Memory} (h : m.covers 0 m.length) (b : Byte) :
    (m.write m.next b).bytes = m.bytes ++ [b] := by
  rw [Memory.covers_next h, Memory.write_end _ _ _ (by
    intro x hx
    rw [h, List.mem_range'_1] at hx
    omega)]
  simp [Memory.bytes]

theorem SpacesOk.winAppend {s : State} (h : SpacesOk s) (b : Byte) : SpacesOk (s.winAppend b) where
  window := by
    have := Memory.covers_write h.window b
    rwa [Nat.zero_add] at this
  base_le := h.base_le
  input := h.input
  output := h.output

theorem SpacesOk.outAppend {s : State} (h : SpacesOk s) (b : Byte) : SpacesOk (s.outAppend b) where
  window := h.window
  base_le := h.base_le
  input := h.input
  output := Memory.covers_write_next h.output b

theorem SpacesOk.emitByte {s : State} (h : SpacesOk s) (b : Byte) : SpacesOk (s.emitByte b) :=
  (h.winAppend b).outAppend b

/-- What appending a byte to `OUT` does to its bytes. -/
theorem outAppend_bytes {s : State} (h : SpacesOk s) (b : Byte) :
    (s.outAppend b).output.mem.bytes = s.output.mem.bytes ++ [b] :=
  Memory.bytes_write_next h.output b

theorem outAppend_length {s : State} (h : SpacesOk s) (b : Byte) :
    (s.outAppend b).output.mem.length = s.output.mem.length + 1 := Memory.length_write_next h.output b

/-- A chunk received: `IN_TOTAL` grows by its length, its bytes stand after those already there (R25, R293). -/
theorem Input.receive_spec (i : Input) (chunk : List Byte) :
    (i.receive chunk).base = i.base ∧ (i.receive chunk).total = i.total + chunk.length
      ∧ (∀ k < chunk.length, (i.receive chunk).mem.read (i.total + k) = chunk[k]?)
      ∧ (∀ a, a < i.total ∨ i.total + chunk.length ≤ a → (i.receive chunk).mem.read a = i.mem.read a) := by
  induction chunk generalizing i with
  | nil => simp [Input.receive]
  | cons b chunk ih =>
    obtain ⟨h1, h2, h3, h4⟩ := ih (i.append b)
    have he : i.receive (b :: chunk) = (i.append b).receive chunk := rfl
    rw [he]
    refine ⟨h1, by simp only [h2, Input.append_total, List.length_cons]; omega, ?_, ?_⟩
    · intro k hk
      cases k with
      | zero =>
        rw [h4 _ (.inl (by simp))]
        simp [Input.append]
      | succ k =>
        have := h3 k (by simpa using hk)
        rw [Input.append_total] at this
        rw [show i.total + (k + 1) = i.total + 1 + k by omega, this]
        rfl
    · intro a ha
      simp only [List.length_cons] at ha
      rw [h4 a (by simp only [Input.append_total]; omega)]
      exact Memory.read_write_other _ _ (by omega)

theorem Input.receive_covers (i : Input) (chunk : List Byte) (hb : i.base ≤ i.total)
    (h : i.mem.covers i.base (i.total - i.base)) :
    (i.receive chunk).base ≤ (i.receive chunk).total ∧
      (i.receive chunk).mem.covers (i.receive chunk).base ((i.receive chunk).total - (i.receive chunk).base) := by
  induction chunk generalizing i with
  | nil => exact ⟨hb, h⟩
  | cons b chunk ih =>
    refine ih (i.append b) (by simp only [Input.append_base, Input.append_total]; omega) ?_
    have := Memory.covers_write h b
    rw [show i.base + (i.total - i.base) = i.total by omega] at this
    simp only [Input.append_base, Input.append_total]
    rw [show i.total + 1 - i.base = i.total - i.base + 1 by omega]
    exact this

/-- Dropping consumed input keeps what is not consumed (R25). -/
theorem Input.dropTo_spec (i : Input) (k : Nat) (hb : i.base ≤ i.total) (h : i.mem.covers i.base (i.total - i.base)) :
    i.base ≤ (i.dropTo k).base ∧ (i.dropTo k).base ≤ i.total
      ∧ (i.dropTo k).mem.covers (i.dropTo k).base ((i.dropTo k).total - (i.dropTo k).base)
      ∧ (∀ a, (i.dropTo k).base ≤ a → (i.dropTo k).mem.read a = i.mem.read a) := by
  have h1 : i.base ≤ min i.total (max i.base k) := by omega
  have h2 : min i.total (max i.base k) ≤ i.total := by omega
  refine ⟨h1, h2, ?_, fun a ha => Memory.read_dropBelow _ _ _ ha⟩
  have := Memory.covers_dropBelow h h1 (by omega)
  rw [show i.base + (i.total - i.base) = i.total by omega] at this
  exact this

theorem SpacesOk.beginFeed {s : State} (h : SpacesOk s) (chunk : List Byte) : SpacesOk (s.beginFeed chunk) where
  window := h.window
  base_le := (Input.receive_covers _ chunk h.base_le h.input).1
  input := (Input.receive_covers _ chunk h.base_le h.input).2
  output := h.output

theorem SpacesOk.deliver {s : State} (h : SpacesOk s) : SpacesOk s.deliver where
  window := h.window
  base_le := (Input.dropTo_spec _ s.consumedBytes h.base_le h.input).2.1
  input := (Input.dropTo_spec _ s.consumedBytes h.base_le h.input).2.2.1
  output := rfl

/-- After an error the spaces hold free values, still one byte at each address of a range. -/
theorem SpacesOk.raise (e : ErrorKind) (s : State) : SpacesOk (raise e s) where
  window := Memory.covers_ofBytes _ _
  base_le := Nat.le_add_right _ _
  input := by
    have := Memory.covers_ofBytes (Config.freeInBase s.freeCount) (Config.freeInput s.freeCount)
    rw [← Nat.add_sub_cancel_left (n := Config.freeInBase s.freeCount)
      (m := (Config.freeInput s.freeCount).length)] at this
    exact this
  output := rfl

theorem SpacesOk.created (s : State) (k : Option Kind) (ct : Option CType) (ds : Option DSize) :
    SpacesOk (s.created k ct ds) := ⟨rfl, Nat.le_refl _, rfl, rfl⟩

/-! ## The window and the copy loop -/

theorem winRead_some {s : State} (h : SpacesOk s) {k : Nat} (hk : k < s.win.len) : ∃ b, s.winRead k = some b :=
  Memory.covers_read_some h.window (Nat.zero_le _) (by omega)

theorem emitByte_win_read {s : State} (b : Byte) (a : Nat) :
    (s.emitByte b).win.mem.read a = if a = s.win.len then some b else s.win.mem.read a :=
  Memory.read_write _ _ _ _

theorem emitByte_out_read {s : State} (h : SpacesOk s) (b : Byte) (a : Nat) :
    (s.emitByte b).output.mem.read a = if a = s.output.mem.length then some b else s.output.mem.read a := by
  rw [← h.next]
  exact Memory.read_write _ _ _ _

/-- What the copy loop does: the closed form of R193, and nothing else of the state changes. -/
theorem copyBytes_spec (count : Nat) {off : Nat} {s : State} (h : SpacesOk s) (h1 : 1 ≤ off) (h2 : off ≤ s.win.len) :
    ∃ t, copyBytes count off s = some t ∧ t = { s with win := t.win, output := t.output } ∧ SpacesOk t
      ∧ t.win.len = s.win.len + count ∧ t.output.count = s.output.count + count
      ∧ t.output.mem.length = s.output.mem.length + count
      ∧ (∀ a, a < s.win.len → t.win.mem.read a = s.win.mem.read a)
      ∧ (∀ a, a < s.output.mem.length → t.output.mem.read a = s.output.mem.read a)
      ∧ (∀ j, j < count → t.win.mem.read (s.win.len + j) = s.win.mem.read (s.win.len - off + j % off)
          ∧ t.output.mem.read (s.output.mem.length + j) = s.win.mem.read (s.win.len - off + j % off)) := by
  induction count generalizing s with
  | zero => exact ⟨s, rfl, rfl, h, rfl, rfl, rfl, fun _ _ => rfl, fun _ _ => rfl, fun _ hj => absurd hj (by omega)⟩
  | succ count ih =>
    obtain ⟨b, hb⟩ := winRead_some h (show s.win.len - off < s.win.len by omega)
    have hlen : (s.emitByte b).win.len = s.win.len + 1 := rfl
    have hout : (s.emitByte b).output.mem.length = s.output.mem.length + 1 := outAppend_length (h.winAppend b) b
    obtain ⟨t, ht, hf, hs, hl, hc, ho, hw, hom, hj⟩ := ih (h.emitByte b) (show off ≤ (s.emitByte b).win.len by omega)
    rw [hlen] at hl hw hj
    rw [hout] at ho hom hj
    refine ⟨t, by simp only [copyBytes, hb, ht], hf, hs, by omega, ?_, by omega, ?_, ?_, ?_⟩
    · rw [hc]; simp only [State.emitByte_output, Output.append_count]; omega
    · intro a ha
      rw [hw a (by omega), emitByte_win_read, if_neg (by omega)]
    · intro a ha
      rw [hom a (by omega), emitByte_out_read h, if_neg (by omega)]
    · have hread : ∀ x, (s.emitByte b).win.mem.read (s.win.len + 1 - off + x % off)
          = s.win.mem.read (s.win.len - off + (x + 1) % off) := by
        intro x
        have hx := Nat.mod_lt x h1
        rw [emitByte_win_read]
        rcases Nat.lt_or_ge (x % off + 1) off with hlt | hge
        · have hm : (x + 1) % off = x % off + 1 := by
            rw [Nat.add_mod, Nat.mod_eq_of_lt (show 1 < off by omega), Nat.mod_eq_of_lt hlt]
          rw [if_neg (by omega), hm]
          congr 1; omega
        · have hm : (x + 1) % off = 0 := by
            rw [Nat.add_mod]
            rcases Nat.lt_or_ge 1 off with h' | h'
            · rw [Nat.mod_eq_of_lt h', show x % off + 1 = off by omega, Nat.mod_self]
            · rw [show off = 1 by omega]; exact Nat.mod_one _
          rw [if_pos (by omega), hm, Nat.add_zero]
          exact hb.symm
      intro j hjlt
      cases j with
      | zero =>
        have hz : (0 : Nat) % off = 0 := Nat.zero_mod off
        rw [Nat.add_zero, Nat.add_zero, hw _ (by omega), hom _ (by omega), emitByte_win_read, if_pos rfl,
          emitByte_out_read h, if_pos rfl, hz, Nat.add_zero]
        exact ⟨hb.symm, hb.symm⟩
      | succ j =>
        have := hj j (by omega)
        rw [hread j] at this
        rw [show s.win.len + (j + 1) = s.win.len + 1 + j by omega,
          show s.output.mem.length + (j + 1) = s.output.mem.length + 1 + j by omega]
        exact this

/-! ## The stream of an IMPLODE engine -/

theorem streamByte_some {s : State} (h : SpacesOk s) (hb : s.input.base ≤ s.win.len) {k : Nat}
    (hk : k < s.input.total) : ∃ b, s.streamByte k = some b := by
  unfold State.streamByte
  split
  · exact winRead_some h ‹_›
  · exact Memory.covers_read_some h.input (by omega) (by have := h.base_le; omega)

/-- Input moved to the window: the window gets the bytes, the input is unchanged (R194). -/
theorem consumeBytes_spec (count : Nat) {s : State} (h : SpacesOk s) (hb : s.input.base ≤ s.win.len)
    (ht : s.win.len + count ≤ s.input.total) :
    ∃ t, consumeBytes count s.win.len s = some t ∧ t = { s with win := t.win } ∧ SpacesOk t
      ∧ t.win.len = s.win.len + count
      ∧ (∀ a, a < s.win.len → t.win.mem.read a = s.win.mem.read a)
      ∧ (∀ j, j < count → t.win.mem.read (s.win.len + j) = s.input.mem.read (s.win.len + j)) := by
  induction count generalizing s with
  | zero => exact ⟨s, rfl, rfl, h, rfl, fun _ _ => rfl, fun _ hj => absurd hj (by omega)⟩
  | succ count ih =>
    obtain ⟨b, hbyte⟩ := streamByte_some h hb (show s.win.len < s.input.total by omega)
    have hread : ∀ a, (s.winAppend b).win.mem.read a = if a = s.win.len then some b else s.win.mem.read a :=
      fun a => Memory.read_write _ _ _ _
    obtain ⟨t, hc, hf, hs, hl, hw, hj⟩ := ih (h.winAppend b)
      (show s.input.base ≤ s.win.len + 1 by omega) (show s.win.len + 1 + count ≤ s.input.total by omega)
    have hlen : (s.winAppend b).win.len = s.win.len + 1 := rfl
    rw [hlen] at hl hw hj hc
    refine ⟨t, by simp only [consumeBytes, hbyte, hc], hf, hs, by omega, ?_, ?_⟩
    · intro a ha
      rw [hw a (by omega), hread, if_neg (by omega)]
    · intro j hjlt
      cases j with
      | zero =>
        rw [Nat.add_zero, hw _ (by omega), hread, if_pos rfl, ← hbyte, State.streamByte, if_neg (by omega)]
      | succ j =>
        have := hj j (by omega)
        rw [show s.win.len + (j + 1) = s.win.len + 1 + j by omega]
        exact this

end Sys2Proof.Machine
end

