-- ==== Sys2Proof/Laws/Cursor.lean ====
section
/-! SUPPORT. The bit cursor: fields read from the stream (R12, R120) and bits put into the output (R22, R121, R124). -/

namespace Sys2Proof

/-! ## Fields -/

theorem natBits_add (n m v : Nat) : natBits (n + m) v = natBits n v ++ natBits m (v / 2 ^ n) := by
  induction n generalizing v with
  | zero => simp [natBits]
  | succ n ih =>
    rw [Nat.succ_add, natBits, natBits, ih, List.cons_append, Nat.div_div_eq_div_mul, Nat.pow_succ, Nat.mul_comm 2]

theorem natBits_mod (n v : Nat) : natBits n (v % 2 ^ n) = natBits n v := by
  have := natBits_bitsValue (natBits n v)
  rwa [natBits_length, bitsValue_natBits] at this

/-- A field put above another one. -/
theorem natBits_or {n v : Nat} (m u : Nat) (h : v < 2 ^ n) : natBits (n + m) (v + u * 2 ^ n) = natBits n v ++ natBits m u := by
  rw [natBits_add, Nat.add_mul_div_right _ _ (Nat.two_pow_pos n), Nat.div_eq_of_lt h, Nat.zero_add,
    ← natBits_mod n (v + u * 2 ^ n), Nat.add_mul_mod_self_right, Nat.mod_eq_of_lt h]

/-- Bit `j` of a field is bit `j` of its value (R12). -/
theorem natBits_getElem (n v j : Nat) (h : j < (natBits n v).length) : (natBits n v)[j] = v.testBit j := by
  induction n generalizing v j with
  | zero => simp [natBits] at h
  | succ n ih =>
    cases j with
    | zero =>
      simp only [natBits, List.getElem_cons_zero, Nat.testBit_zero]
      rcases Nat.mod_two_eq_zero_or_one v with h' | h' <;> simp [h']
    | succ j =>
      simp only [natBits, List.getElem_cons_succ, Nat.testBit_succ]
      exact ih _ _ _

theorem bitsValue_append (bs cs : Bits) : bitsValue (bs ++ cs) = bitsValue bs + 2 ^ bs.length * bitsValue cs := by
  induction bs with
  | nil => simp [bitsValue]
  | cons b bs ih => simp only [List.cons_append, bitsValue, ih, List.length_cons, Nat.pow_succ]; ring

theorem bytesBits_append (xs ys : List Byte) : bytesBits (xs ++ ys) = bytesBits xs ++ bytesBits ys := by
  simp [bytesBits]

theorem bytesBits_length (xs : List Byte) : (bytesBits xs).length = 8 * xs.length := by
  induction xs with
  | nil => rfl
  | cons x xs ih =>
    have : bytesBits (x :: xs) = natBits 8 x.toNat ++ bytesBits xs := rfl
    rw [this, List.length_append, natBits_length, ih, List.length_cons]
    omega

namespace Machine

/-! ## The write side -/

/-- No bit of `BC.PARTIAL` at or above `BC.FILLED` (R22, R125). -/
theorem cursor_lt {s : State} (h : s.bc.partialByte >>> s.bc.bitsFilled.toNat = 0) :
    s.bc.partialByte.toNat < 2 ^ s.bc.bitsFilled.toNat := by
  have h0 := congrArg BitVec.toNat h
  rw [BitVec.toNat_ushiftRight, Nat.shiftRight_eq_div_pow] at h0
  exact Nat.lt_of_div_eq_zero (Nat.two_pow_pos _) h0

theorem cursor_of_lt {s : State} (h : s.bc.partialByte.toNat < 2 ^ s.bc.bitsFilled.toNat) :
    s.bc.partialByte >>> s.bc.bitsFilled.toNat = 0 := by
  apply BitVec.eq_of_toNat_eq
  rw [BitVec.toNat_ushiftRight, Nat.shiftRight_eq_div_pow]
  exact Nat.div_eq_of_lt h

theorem putBit_acc {p : Byte} {f : BitVec 3} (b : Bool) (h : p.toNat < 2 ^ f.toNat) :
    (p ||| ((BitVec.ofBool b).setWidth 8 <<< f.toNat)).toNat = p.toNat + b.toNat * 2 ^ f.toNat := by
  have hf : f.toNat < 8 := f.isLt
  have hb : b.toNat * 2 ^ f.toNat < 2 ^ 8 := by
    have : 2 ^ f.toNat ≤ 2 ^ 7 := Nat.pow_le_pow_right (by omega) (by omega)
    cases b
    · simp
    · simp; omega
  rw [BitVec.toNat_or, BitVec.toNat_shiftLeft, BitVec.toNat_setWidth, BitVec.toNat_ofBool,
    Nat.mod_eq_of_lt (show b.toNat < 2 ^ 8 by cases b <;> simp), Nat.shiftLeft_eq, Nat.mod_eq_of_lt hb,
    Nat.or_comm, ← Nat.shiftLeft_eq, ← Nat.shiftLeft_add_eq_or_of_lt h, Nat.shiftLeft_eq, Nat.add_comm]

/-- What one put bit does. -/
theorem putBit_spec {s : State} (b : Bool) (h : SpacesOk s) (hp : s.bc.partialByte.toNat < 2 ^ s.bc.bitsFilled.toNat) :
    SpacesOk (s.putBit b) ∧ (s.putBit b).bc.partialByte.toNat < 2 ^ (s.putBit b).bc.bitsFilled.toNat
      ∧ (s.putBit b).outBits = s.outBits ++ [b] ∧ (s.putBit b).opos = s.opos + 1
      ∧ s.putBit b = { s with bc := (s.putBit b).bc, output := (s.putBit b).output } := by
  have hacc := putBit_acc b hp
  have hf : s.bc.bitsFilled.toNat < 8 := s.bc.bitsFilled.isLt
  have hone : [b] = natBits 1 b.toNat := by cases b <;> rfl
  have hbits := natBits_or 1 b.toNat hp
  unfold State.putBit
  simp only
  split
  · rename_i h7
    have h7' : s.bc.bitsFilled.toNat = 7 := by rw [h7]; rfl
    refine ⟨(h.outAppend _).congr rfl rfl rfl, by simp, ?_, ?_, rfl⟩
    · simp only [State.outBits]
      rw [outAppend_bytes h, bytesBits_append, hone, List.append_assoc, List.append_assoc, ← hbits, ← hacc, h7']
      simp [bytesBits, natBits]
    · simp [State.opos, h7']; omega
  · rename_i h7
    have h7' : s.bc.bitsFilled.toNat < 7 := by
      rcases Nat.lt_or_ge s.bc.bitsFilled.toNat 7 with h' | h'
      · exact h'
      · exact absurd (BitVec.eq_of_toNat_eq (show s.bc.bitsFilled.toNat = (7 : BitVec 3).toNat by
          rw [show (7 : BitVec 3).toNat = 7 from rfl]; omega)) h7
    have hinc : (s.bc.bitsFilled + 1).toNat = s.bc.bitsFilled.toNat + 1 := by
      rw [BitVec.toNat_add, show (1 : BitVec 3).toNat = 1 from rfl, Nat.mod_eq_of_lt (by omega)]
    refine ⟨h.congr rfl rfl rfl, ?_, ?_, ?_, rfl⟩
    · simp only [hacc, hinc, Nat.pow_succ]
      cases b <;> simp <;> omega
    · simp only [State.outBits, hacc, hinc, hbits, hone, List.append_assoc]
    · simp only [State.opos, hinc]; omega

theorem cursorFrame_trans {s u t : State} (h : u = { s with bc := u.bc, output := u.output })
    (h' : t = { u with bc := t.bc, output := t.output }) : t = { s with bc := t.bc, output := t.output } := by
  refine h'.trans ?_
  rw [h]

/-- What `putBits` does: the field's bits follow those already put, nothing else changes (R22, R121). -/
theorem putBits_spec (n : Nat) (v : BitVec 16) {s : State} (h : SpacesOk s)
    (hp : s.bc.partialByte.toNat < 2 ^ s.bc.bitsFilled.toNat) :
    SpacesOk (putBits n v s) ∧ (putBits n v s).bc.partialByte.toNat < 2 ^ (putBits n v s).bc.bitsFilled.toNat
      ∧ (putBits n v s).outBits = s.outBits ++ natBits n v.toNat ∧ (putBits n v s).opos = s.opos + n
      ∧ putBits n v s = { s with bc := (putBits n v s).bc, output := (putBits n v s).output } := by
  induction n generalizing v s with
  | zero => exact ⟨h, hp, by simp [putBits, natBits], rfl, rfl⟩
  | succ n ih =>
    obtain ⟨h1, h2, h3, h4, h5⟩ := putBit_spec (v.getLsbD 0) h hp
    obtain ⟨i1, i2, i3, i4, i5⟩ := ih (v >>> 1) h1 h2
    refine ⟨i1, i2, ?_, by simp only [putBits, i4, h4]; omega, cursorFrame_trans h5 i5⟩
    have hv : (v >>> 1).toNat = v.toNat / 2 := by rw [BitVec.toNat_ushiftRight, Nat.shiftRight_eq_div_pow]
    have hb : v.getLsbD 0 = (v.toNat % 2 == 1) := by
      rw [BitVec.getLsbD, Nat.testBit_zero]
      rcases Nat.mod_two_eq_zero_or_one v.toNat with h' | h' <;> simp [h']
    rw [putBits, i3, h3, hv, hb, natBits, List.append_assoc]
    rfl

/-- What `flush` does: zero bits up to the byte boundary (R124). -/
theorem flush_spec {s : State} (h : SpacesOk s) (hp : s.bc.partialByte.toNat < 2 ^ s.bc.bitsFilled.toNat) :
    SpacesOk s.flush ∧ s.flush.bc = { partialByte := 0, bitsFilled := 0 }
      ∧ s.flush.outBits = s.outBits ++ List.replicate ((8 - s.bc.bitsFilled.toNat) % 8) false
      ∧ s.flush = { s with bc := s.flush.bc, output := s.flush.output } := by
  have hf : s.bc.bitsFilled.toNat < 8 := s.bc.bitsFilled.isLt
  unfold State.flush
  split
  · rename_i h0
    have hz : s.bc.partialByte = 0 := by
      apply BitVec.eq_of_toNat_eq
      have : s.bc.partialByte.toNat < 1 := by simpa [h0] using hp
      simp; omega
    refine ⟨h, ?_, by simp [h0], rfl⟩
    cases hb : s.bc with
    | mk p f => rw [hb] at h0 hz; simp only at h0 hz; rw [h0, hz]
  · rename_i h0
    have h0' : s.bc.bitsFilled.toNat ≠ 0 := fun hc => h0 (BitVec.eq_of_toNat_eq (by simpa using hc))
    refine ⟨(h.outAppend _).congr rfl rfl rfl, rfl, ?_, rfl⟩
    have hz : ∀ n, natBits n 0 = List.replicate n false := by
      intro n
      induction n with
      | zero => rfl
      | succ n ih => rw [natBits, ih, List.replicate_succ]; rfl
    have := natBits_or (8 - s.bc.bitsFilled.toNat) 0 hp
    rw [Nat.zero_mul, Nat.add_zero, show s.bc.bitsFilled.toNat + (8 - s.bc.bitsFilled.toNat) = 8 by omega, hz] at this
    simp only [State.outBits]
    rw [outAppend_bytes h, bytesBits_append, Nat.mod_eq_of_lt (by omega), List.append_assoc, List.append_assoc, ← this]
    simp [bytesBits, natBits]

/-! ## The read side -/

theorem bitAt_some {s : State} (h : SpacesOk s) {k : Nat} (h1 : 8 * s.input.base ≤ k) (h2 : k < 8 * s.input.total) :
    ∃ b, s.bitAt k = some b := by
  obtain ⟨b, hb⟩ := Memory.covers_read_some h.input (a := k / 8) (by omega) (by have := h.base_le; omega)
  exact ⟨_, by rw [State.bitAt, if_pos h2, hb]; rfl⟩

/-- The bits the decoder is given: as many as asked for and received. -/
theorem bitsFrom_length {s : State} (h : SpacesOk s) (n : Nat) {k : Nat} (h1 : 8 * s.input.base ≤ k) :
    (s.bitsFrom n k).length = min n (8 * s.input.total - k) := by
  induction n generalizing k with
  | zero => simp [State.bitsFrom]
  | succ n ih =>
    rcases Nat.lt_or_ge k (8 * s.input.total) with h2 | h2
    · obtain ⟨b, hb⟩ := bitAt_some h h1 h2
      simp only [State.bitsFrom, hb, List.length_cons, ih (k := k + 1) (by omega)]
      omega
    · simp only [State.bitsFrom, State.bitAt, if_neg (show ¬ k < 8 * s.input.total by omega), List.length_nil]
      omega

/-- Bit `j` of them is stream bit `k + j` (R12). -/
theorem bitsFrom_getElem (s : State) (n k j : Nat) (hj : j < (s.bitsFrom n k).length) :
    s.bitAt (k + j) = some ((s.bitsFrom n k)[j]) := by
  induction n generalizing k j with
  | zero => simp [State.bitsFrom] at hj
  | succ n ih =>
    cases hb : s.bitAt k with
    | none => simp [State.bitsFrom, hb] at hj
    | some b =>
      cases j with
      | zero => simp [State.bitsFrom, hb]
      | succ j =>
        simp only [State.bitsFrom, hb, List.length_cons, Nat.succ_lt_succ_iff] at hj
        have := ih (k + 1) j hj
        simp only [State.bitsFrom, hb, List.getElem_cons_succ]
        rw [← this]
        congr 1; omega

/-- After the first `m` of them, the rest are those from bit `k + m` on. -/
theorem bitsFrom_drop (s : State) (n k m : Nat) (hm : m ≤ (s.bitsFrom n k).length) :
    (s.bitsFrom n k).drop m = s.bitsFrom (n - m) (k + m) := by
  induction m generalizing n k with
  | zero => simp
  | succ m ih =>
    cases n with
    | zero => simp [State.bitsFrom] at hm
    | succ n =>
      cases hb : s.bitAt k with
      | none => simp [State.bitsFrom, hb] at hm
      | some b =>
        simp only [State.bitsFrom, hb, List.length_cons, Nat.succ_le_succ_iff] at hm ⊢
        rw [List.drop_succ_cons, ih n (k + 1) hm]
        congr 1 <;> omega

theorem bitsFrom_append (s : State) (n m k : Nat) (h : (s.bitsFrom n k).length = n) :
    s.bitsFrom (n + m) k = s.bitsFrom n k ++ s.bitsFrom m (k + n) := by
  induction n generalizing k with
  | zero => simp [State.bitsFrom]
  | succ n ih =>
    cases hb : s.bitAt k with
    | none => simp [State.bitsFrom, hb] at h
    | some b =>
      rw [show n + 1 + m = n + m + 1 by omega]
      simp only [State.bitsFrom, hb, List.length_cons, Nat.succ.injEq] at h ⊢
      rw [ih (k + 1) h, List.cons_append, show k + 1 + n = k + (n + 1) by omega]

/-- A whole stream byte as bits. -/
theorem bitsFrom_byte {s : State} {k : Nat} {b : Byte} (hb : s.input.mem.read k = some b) (hk : k < s.input.total) :
    s.bitsFrom 8 (8 * k) = natBits 8 b.toNat := by
  have hbit : ∀ j, j < 8 → s.bitAt (8 * k + j) = some (b.toNat.testBit j) := by
    intro j hj
    rw [State.bitAt, if_pos (by omega), show (8 * k + j) / 8 = k by omega, hb, show (8 * k + j) % 8 = j by omega]
    rfl
  have hlen : ∀ n m, m + n ≤ 8 → (s.bitsFrom n (8 * k + m)).length = n := by
    intro n
    induction n with
    | zero => intro m _; rfl
    | succ n ih =>
      intro m hm
      simp only [State.bitsFrom, hbit m (by omega), List.length_cons]
      rw [show 8 * k + m + 1 = 8 * k + (m + 1) by omega, ih (m + 1) (by omega)]
  have h8 := hlen 8 0 (by omega)
  rw [Nat.add_zero] at h8
  refine List.ext_getElem (by rw [h8, natBits_length]) ?_
  intro j hj _
  have h1 := bitsFrom_getElem s 8 (8 * k) j hj
  rw [hbit j (by omega)] at h1
  rw [natBits_getElem]
  exact (Option.some.inj h1).symm

end Machine

end Sys2Proof
end

