-- ==== Sys2Proof/Laws/Step.lean ====
section
/-! SUPPORT. Everything a step can do, said once: the inversion of `exec`, of the transactions' beginnings, of the match
finder and of the emission of one item. -/

namespace Sys2Proof.Machine

/-! ## The items -/

theorem acceptHdr0_next {ct : CType} {s t : State} (h : acceptHdr0 ct s = .next t) :
    HeaderByteDue none s ∧ t = { s with hdr := { s.hdr with ctype := some ct } } := by
  unfold acceptHdr0 at h
  split at h
  · exact ⟨place_hdr0 ‹_›, by simpa using h.symm⟩
  · cases h

theorem acceptHdr0_due {s : State} (h : HeaderByteDue none s) (ct : CType) :
    acceptHdr0 ct s = .next { s with hdr := { s.hdr with ctype := some ct } } := if_pos h.place

theorem acceptHdr1_next {ds : DSize} {s t : State} (h : acceptHdr1 ds s = .next t) :
    ∃ ct, HeaderByteDue (some ct) s ∧ t = { s with
      hdr := { s.hdr with dsize := some ds }
      tables := explodeTables ct
      ipos := 16
      phase := .streaming } := by
  unfold acceptHdr1 at h
  split at h
  · rename_i ct hp hc
    obtain ⟨c, hd⟩ := place_hdr1 hp
    have : c = ct := by have := hd.ctype; rw [hc] at this; cases this; rfl
    subst this
    exact ⟨c, hd, by simpa using h.symm⟩
  · cases h

theorem acceptHdr1_due {ct : CType} {s : State} (h : HeaderByteDue (some ct) s) (ds : DSize) :
    acceptHdr1 ds s = .next { s with
      hdr := { s.hdr with dsize := some ds }
      tables := explodeTables ct
      ipos := 16
      phase := .streaming } := by
  simp [acceptHdr1, h.place, h.ctype]

theorem literal_next {ct : CType} {size : Nat} {b : Byte} {s t : State} (h : literal ct size b s = .next t) :
    SymbolDue ct s ∧ t = { s.emitByte b with ipos := s.ipos + size } := by
  unfold literal at h
  split at h
  · exact ⟨place_symbol ‹_›, by simpa using h.symm⟩
  · cases h

theorem literal_due {ct : CType} {s : State} (h : SymbolDue ct s) (size : Nat) (b : Byte) :
    literal ct size b s = .next { s.emitByte b with ipos := s.ipos + size } := if_pos h.place

theorem atSymbol_iff (s : State) : s.atSymbol = true ↔ ∃ ct, SymbolDue ct s := by
  constructor
  · intro h
    unfold State.atSymbol at h
    split at h
    · exact ⟨_, place_symbol ‹_›⟩
    · cases h
  · rintro ⟨ct, h⟩
    simp [State.atSymbol, h.place]

theorem lengthPart_next {bucket extra : Nat} {s t : State} (h : lengthPart bucket extra s = .next t) :
    (∃ ct, SymbolDue ct s) ∧ t = { s with
      pending := some { length := matchLength bucket extra, pos := s.ipos + itemBits (.len bucket extra) } } := by
  unfold lengthPart at h
  split at h
  · exact ⟨(atSymbol_iff s).1 ‹_›, by simpa using h.symm⟩
  · cases h

theorem lengthPart_due {ct : CType} {s : State} (h : SymbolDue ct s) (bucket extra : Nat) :
    lengthPart bucket extra s = .next { s with
      pending := some { length := matchLength bucket extra, pos := s.ipos + itemBits (.len bucket extra) } } :=
  if_pos ((atSymbol_iff s).2 ⟨ct, h⟩)

theorem endOfStream_next {s t : State} (h : endOfStream s = .next t) :
    (∃ ct, SymbolDue ct s) ∧ t = { (s.setEosSeen).setNeedsMore false with ipos := s.ipos + 16 } := by
  unfold endOfStream at h
  split at h
  · exact ⟨(atSymbol_iff s).1 ‹_›, by simpa using h.symm⟩
  · cases h

theorem endOfStream_due {ct : CType} {s : State} (h : SymbolDue ct s) :
    endOfStream s = .next { (s.setEosSeen).setNeedsMore false with ipos := s.ipos + 16 } :=
  if_pos ((atSymbol_iff s).2 ⟨ct, h⟩)

/-- The state the DIST part hands to `copyMatch`. -/
def State.atCopy (s : State) (m : PendingMatch) (index : Nat) (low : DistLow) : State :=
  { s with ipos := m.pos + itemBits (.dist index low), pending := none }

theorem distancePart_next {index : Nat} {low : DistLow} {s t : State} (h : distancePart index low s = .next t) :
    ∃ m ds, DistanceDue m ds s ∧ lowWidth low = distWidth s.len2Short m.length ds
      ∧ copyMatch m.length (matchOffset index low) (s.atCopy m index low) = .next t := by
  unfold distancePart at h
  split at h
  · rename_i w m hp hm
    split at h
    · obtain ⟨m', ds, hd, hw⟩ := place_distance hp
      have : m' = m := by have := hd.pending; rw [hm] at this; cases this; rfl
      subst this
      exact ⟨m', ds, hd, by rw [← hw]; assumption, h⟩
    · cases h
  · cases h

theorem distancePart_due {m : PendingMatch} {ds : DSize} {s : State} (h : DistanceDue m ds s) {index : Nat} {low : DistLow}
    (hw : lowWidth low = distWidth s.len2Short m.length ds) :
    distancePart index low s = copyMatch m.length (matchOffset index low) (s.atCopy m index low) := by
  simp [distancePart, h.place, h.pending, hw, State.atCopy]

theorem copyMatch_next {count off : Nat} {s t : State} (h : copyMatch count off s = .next t) :
    (s.win.len < off ∧ t = raise .malformedSymbol s) ∨ (off ≤ s.win.len ∧ copyBytes count off s = some t) := by
  unfold copyMatch at h
  split at h
  · exact .inl ⟨‹_›, by simpa using h.symm⟩
  · split at h
    · cases h
    · rename_i u hu
      have : u = t := by simpa using h
      subst this
      exact .inr ⟨by omega, hu⟩

theorem matchOffset_pos (index : Nat) (low : DistLow) : 1 ≤ matchOffset index low := Nat.le_add_left _ _

/-! ## The decoder at a place -/

/-- The item at a place of an engine with the tables of its stream is as long as the bits before the rest, and can stand
there. -/
theorem decode_stands {ct : CType} {p : Place} {bs rest : Bits} {i : Instr}
    (h : decode (explodeTables ct) p bs = .item i rest) (hp : tablesAt ct p) :
    bs.length = itemBits i.item + rest.length ∧ i.item.inRange ∧ canStand i.item p := by
  obtain ⟨h1, h2, h3⟩ := decode_spec h hp
  refine ⟨h1, h2, ?_⟩
  cases p with
  | hdr0 => obtain ⟨c, hc⟩ := h3; rw [hc]; rfl
  | hdr1 => obtain ⟨c, hc⟩ := h3; rw [hc]; rfl
  | symbol c =>
    cases c <;> rcases h3 with ⟨b, hb⟩ | ⟨k, e, hb⟩ | hb <;> rw [hb]
    · rfl
    · exact ⟨_, rfl⟩
    · exact ⟨_, rfl⟩
    · rfl
    · exact ⟨_, rfl⟩
    · exact ⟨_, rfl⟩
  | distance w =>
    obtain ⟨c, low, hc, hw⟩ := h3
    rw [hc]
    exact congrArg Place.distance hw.symm

/-! ## The beginning of a transaction -/

theorem acceptFeed_next {chunk : List Byte} {s t : State} (h : acceptFeed chunk s = .next t) :
    s.kind ≠ none ∧
      ((s.phase = .failed ∧ t = s.reply { producedOutput := [], error := s.err })
        ∨ (s.phase ≠ .failed ∧ (s.flags.streamEnded = true ∨ chunk = []) ∧ t = s.reply { producedOutput := [], error := none })
        ∨ (s.phase ≠ .failed ∧ s.flags.streamEnded = false ∧ chunk ≠ [] ∧ t = s.beginFeed chunk)) := by
  unfold acceptFeed at h
  split at h
  · cases h
  · refine ⟨‹_›, ?_⟩
    split at h
    · exact .inl ⟨‹_›, by simpa using h.symm⟩
    · split at h
      · exact .inr (.inl ⟨‹_›, .inl ‹_›, by simpa using h.symm⟩)
      · split at h
        · exact .inr (.inl ⟨‹_›, .inr ‹_›, by simpa using h.symm⟩)
        · exact .inr (.inr ⟨‹_›, by simpa using ‹¬s.flags.streamEnded = true›, ‹_›, by simpa using h.symm⟩)

theorem acceptFinish_next {s t : State} (h : acceptFinish s = .next t) :
    s.kind ≠ none ∧
      ((s.phase = .failed ∧ t = s.reply { producedOutput := [], error := s.err })
        ∨ (s.phase ≠ .failed ∧ s.flags.streamEnded = true ∧ t = s.reply { producedOutput := [], error := none })
        ∨ (s.phase ≠ .failed ∧ s.flags.streamEnded = false ∧ t = s.beginFinish)) := by
  unfold acceptFinish at h
  split at h
  · cases h
  · refine ⟨‹_›, ?_⟩
    split at h
    · exact .inl ⟨‹_›, by simpa using h.symm⟩
    · split at h
      · exact .inr (.inl ⟨‹_›, ‹_›, by simpa using h.symm⟩)
      · exact .inr (.inr ⟨‹_›, by simpa using ‹¬s.flags.streamEnded = true›, by simpa using h.symm⟩)

/-- What a step between transactions does. -/
theorem idleStep_next {s t : State} (h : idleStep s = .next t) :
    (s.requests = [] ∧ t = s) ∨ ∃ r rest, s.requests = r :: rest ∧ accept r { s with requests := rest } = .next t := by
  unfold idleStep at h
  split at h
  · exact .inl ⟨‹_›, by simpa using h.symm⟩
  · exact .inr ⟨_, _, ‹_›, h⟩

/-! ## The match finder (R264, R266) -/

/-- A run of equal bytes: as long as counted, no longer than allowed. -/
theorem runLength_spec (s : State) (n a b : Nat) :
    s.runLength n a b ≤ n ∧ ∀ j < s.runLength n a b, s.streamByte (a + j) = s.streamByte (b + j) := by
  induction n generalizing a b with
  | zero => exact ⟨Nat.le_refl _, fun j hj => absurd hj (Nat.not_lt_zero _)⟩
  | succ n ih =>
    unfold State.runLength
    split
    · rename_i x y hx hy
      split
      · rename_i hxy
        obtain ⟨h1, h2⟩ := ih (a + 1) (b + 1)
        refine ⟨by omega, ?_⟩
        intro j hj
        cases j with
        | zero => rw [Nat.add_zero, Nat.add_zero, hx, hy, hxy]
        | succ j =>
          have := h2 j (by omega)
          rw [show a + (j + 1) = a + 1 + j by omega, show b + (j + 1) = b + 1 + j by omega]
          exact this
      · exact ⟨Nat.zero_le _, fun j hj => absurd hj (Nat.not_lt_zero _)⟩
    · exact ⟨Nat.zero_le _, fun j hj => absurd hj (Nat.not_lt_zero _)⟩

/-- The search over offsets: the best run found, at the first offset that reaches it. -/
theorem bestMatch_spec (s : State) (p maxlen count off : Nat) (best : Nat × Nat) :
    let r := s.bestMatch p maxlen count off best
    (r = best ∨ (off ≤ r.2 ∧ r.2 < off + count ∧ r.1 = s.runLength maxlen (p - r.2) p ∧ best.1 < r.1))
      ∧ best.1 ≤ r.1
      ∧ (∀ o, off ≤ o → o < off + count → s.runLength maxlen (p - o) p ≤ r.1)
      ∧ (best.1 < r.1 → ∀ o, off ≤ o → o < r.2 → s.runLength maxlen (p - o) p < r.1) := by
  induction count generalizing off best with
  | zero =>
    refine ⟨.inl rfl, Nat.le_refl _, fun o h1 h2 => absurd h2 (by omega), fun h => absurd h (by simp [State.bestMatch])⟩
  | succ count ih =>
    have h := ih (off + 1) (if best.1 < s.runLength maxlen (p - off) p then (s.runLength maxlen (p - off) p, off) else best)
    simp only [State.bestMatch]
    simp only at h
    generalize hr : s.bestMatch p maxlen count (off + 1)
      (if best.1 < s.runLength maxlen (p - off) p then (s.runLength maxlen (p - off) p, off) else best) = r at h ⊢
    obtain ⟨h1, h2, h3, h4⟩ := h
    by_cases hlt : best.1 < s.runLength maxlen (p - off) p
    · rw [if_pos hlt] at h1 h2 h4
      simp only at h1 h2 h4
      refine ⟨?_, by omega, ?_, ?_⟩
      · rcases h1 with h1 | ⟨a1, a2, a3, a4⟩
        · rw [h1]; exact .inr ⟨Nat.le_refl _, by simp only; omega, rfl, hlt⟩
        · exact .inr ⟨by omega, by omega, a3, by omega⟩
      · intro o ho1 ho2
        rcases Nat.lt_or_ge off o with h' | h'
        · exact h3 o h' (by omega)
        · rw [show o = off by omega]; exact h2
      · intro _ o ho1 ho2
        rcases Nat.lt_or_ge (s.runLength maxlen (p - off) p) r.1 with h' | h'
        · rcases Nat.lt_or_ge off o with h'' | h''
          · exact h4 h' o h'' ho2
          · rw [show o = off by omega]; exact h'
        · rcases h1 with h1 | ⟨a1, a2, a3, a4⟩
          · rw [h1] at ho2; simp only at ho2; omega
          · omega
    · rw [if_neg hlt] at h1 h2 h4
      refine ⟨?_, h2, ?_, ?_⟩
      · rcases h1 with h1 | ⟨a1, a2, a3, a4⟩
        · exact .inl h1
        · exact .inr ⟨by omega, by omega, a3, a4⟩
      · intro o ho1 ho2
        rcases Nat.lt_or_ge off o with h' | h'
        · exact h3 o h' (by omega)
        · rw [show o = off by omega]; omega
      · intro hb o ho1 ho2
        rcases Nat.lt_or_ge off o with h' | h'
        · exact h4 hb o h' ho2
        · rw [show o = off by omega]; omega

/-- What a found match is worth to the encoder (R266). -/
theorem findMatch_spec (s : State) (reach p : Nat) (h : Config.minLen ≤ (s.findMatch reach p).1) :
    (s.findMatch reach p).1 ≤ Config.maxLen ∧ (s.findMatch reach p).1 ≤ s.input.total - p
      ∧ 1 ≤ (s.findMatch reach p).2 ∧ (s.findMatch reach p).2 ≤ min reach p
      ∧ ((s.findMatch reach p).1 = 2 → (s.findMatch reach p).2 ≤ 256)
      ∧ ∀ j < (s.findMatch reach p).1, s.streamByte (p - (s.findMatch reach p).2 + j) = s.streamByte (p + j) := by
  unfold State.findMatch at h ⊢
  simp only at h ⊢
  split at h
  · simp [Config.minLen] at h
  · rename_i hm
    rw [if_neg hm]
    obtain ⟨h1, -, -, -⟩ := bestMatch_spec s p (min Config.maxLen (s.input.total - p)) (min reach p) 1 (0, 0)
    generalize s.bestMatch p (min Config.maxLen (s.input.total - p)) (min reach p) 1 (0, 0) = r at h h1 ⊢
    have hq : qualified r = r ∧ (r.1 = 2 → r.2 ≤ 256) := by
      unfold qualified at h ⊢
      by_cases h3 : 3 ≤ r.1
      · rw [if_pos h3]; exact ⟨rfl, fun h => by omega⟩
      · rw [if_neg h3] at h ⊢
        by_cases h2 : r.1 = 2 ∧ r.2 ≤ 256
        · rw [if_pos h2]; exact ⟨rfl, fun _ => h2.2⟩
        · rw [if_neg h2] at h; simp [Config.minLen] at h
    rw [hq.1] at h ⊢
    rcases h1 with h1 | ⟨a1, a2, a3, a4⟩
    · rw [h1] at h; simp [Config.minLen] at h
    · obtain ⟨b1, b2⟩ := runLength_spec s (min Config.maxLen (s.input.total - p)) (p - r.2) p
      rw [← a3] at b1 b2
      exact ⟨by omega, by omega, a1, by omega, hq.2, b2⟩

/-! ## The CodeTable -/

theorem lengthEntries_length : lengthEntries.length = 518 := by decide +kernel

theorem codeTable_length (ct : CType) : (codeTable ct).length = Config.nSym := by
  rw [codeTable, List.length_append, lengthEntries_length, List.length_map, List.length_range, Config.nSym]

/-- Every symbol has an entry, so `putSymbol` puts it. -/
theorem putSymbol_built {ct : CType} {s : State} (h : s.tables = implodeTables ct) {symbol : Nat}
    (hs : symbol < Config.nSym) :
    putSymbol symbol s = some (putBits ((codeTable ct)[symbol]'(by rw [codeTable_length]; exact hs)).bits.toNat
      ((codeTable ct)[symbol]'(by rw [codeTable_length]; exact hs)).code s) := by
  have hl : symbol < (codeTable ct).length := by rw [codeTable_length]; exact hs
  have hct : s.tables.ct = some (codeTable ct) := by rw [h]; rfl
  simp only [putSymbol, hct, List.getElem?_eq_getElem hl]

end Sys2Proof.Machine
end

