-- ==== Sys2Proof/Laws/Emit.lean ====
section
/-! SUPPORT. What the emission of one item does: the item's bits follow those already put, its bytes move to the window
(R268 to R271). -/

namespace Sys2Proof.Machine

/-! ## The CodeTable's entries are the items' bits -/

/-- The literal item of a byte in a stream of a type. -/
def literalItem (ct : CType) (b : Byte) : Item :=
  match ct with
  | .binary => .litB b
  | .ascii => .litA b

theorem ascii_rom_small : ∀ n : Fin 256, romAt chBitsAsc n.val ≤ 13 ∧ romAt chCodeAsc n.val < 2 ^ 13 := by decide +kernel

theorem literalEntry_bits (ct : CType) (b : Byte) :
    natBits (literalEntry ct b.toNat).bits.toNat (literalEntry ct b.toNat).code.toNat = encodeItem (literalItem ct b) := by
  have hb := b.isLt
  cases ct with
  | binary =>
    simp only [literalEntry, codeEntry, literalItem, encodeItem]
    rw [BitVec.toNat_ofNat, BitVec.toNat_ofNat, Nat.mod_eq_of_lt (show 9 < 2 ^ 5 by omega), Nat.shiftLeft_eq,
      Nat.mod_eq_of_lt (by omega), natBits]
    rw [show b.toNat * 2 ^ 1 / 2 = b.toNat by omega, show (b.toNat * 2 ^ 1 % 2 == 1) = false by simp]
  | ascii =>
    obtain ⟨h1, h2⟩ := ascii_rom_small ⟨b.toNat, hb⟩
    simp only at h1 h2
    simp only [literalEntry, codeEntry, literalItem, encodeItem]
    rw [BitVec.toNat_ofNat, BitVec.toNat_ofNat, Nat.mod_eq_of_lt (show romAt chBitsAsc b.toNat + 1 < 2 ^ 5 by omega),
      Nat.shiftLeft_eq, Nat.mod_eq_of_lt (by omega), natBits]
    rw [show romAt chCodeAsc b.toNat * 2 ^ 1 / 2 = romAt chCodeAsc b.toNat by omega,
      show (romAt chCodeAsc b.toNat * 2 ^ 1 % 2 == 1) = false by simp]

theorem codeTable_literal (ct : CType) (b : Byte) (h : b.toNat < (codeTable ct).length) :
    (codeTable ct)[b.toNat] = literalEntry ct b.toNat := by
  have hb := b.isLt
  simp only [codeTable]
  rw [List.getElem_append_left (by simpa using hb), List.getElem_map, List.getElem_range]

/-- Entry `0x100 + LenBase[i] + e` holds the bits of the length item of bucket `i` with extra value `e`; the last one is EOS
(R152, R153). -/
def lengthEntriesOk : Bool :=
  (List.range 16).all fun i => (List.range (2 ^ romAt exLenBits i)).all fun e =>
    match lengthEntries[lenBase i + e]? with
    | none => false
    | some entry =>
      natBits entry.bits.toNat entry.code.toNat == encodeItem (if i = 15 ∧ e = 255 then .eos else .len i e)

set_option maxRecDepth 20000 in
theorem lengthEntries_ok : lengthEntriesOk = true := by decide +kernel

theorem lengthEntry_bits {i e : Nat} (hi : i < 16) (he : e < 2 ^ romAt exLenBits i) :
    ∃ entry, lengthEntries[lenBase i + e]? = some entry ∧
      natBits entry.bits.toNat entry.code.toNat = encodeItem (if i = 15 ∧ e = 255 then .eos else .len i e) := by
  have h := List.all_eq_true.1 (List.all_eq_true.1 lengthEntries_ok i (List.mem_range.2 hi)) e (List.mem_range.2 he)
  split at h
  · cases h
  · exact ⟨_, ‹_›, by simpa using h⟩

theorem codeTable_length_entry (ct : CType) (k : Nat) : (codeTable ct)[0x100 + k]? = lengthEntries[k]? := by
  have h : ((List.range 256).map (literalEntry ct)).length = 256 := by rw [List.length_map, List.length_range]
  rw [codeTable, List.getElem?_append_right (by rw [h]; omega), h, show 0x100 + k - 256 = k by omega]

/-! ## putSymbol -/

/-- What putting a symbol does to a streaming engine. -/
theorem putSymbol_spec {ct : CType} {s : State} (h : SpacesOk s) (htab : s.tables = implodeTables ct)
    (hp : s.bc.partialByte.toNat < 2 ^ s.bc.bitsFilled.toNat) {symbol : Nat} {entry : CodeEntry} {item : Item}
    (he : (codeTable ct)[symbol]? = some entry)
    (hbits : natBits entry.bits.toNat entry.code.toNat = encodeItem item) :
    ∃ t, putSymbol symbol s = some t ∧ SpacesOk t ∧ t.bc.partialByte.toNat < 2 ^ t.bc.bitsFilled.toNat
      ∧ t.outBits = s.outBits ++ encodeItem item ∧ t = { s with bc := t.bc, output := t.output } := by
  obtain ⟨h1, h2, h3, -, h5⟩ := putBits_spec entry.bits.toNat entry.code h hp
  have hct : s.tables.ct = some (codeTable ct) := by rw [htab]; rfl
  exact ⟨_, by simp only [putSymbol, hct, he], h1, h2, by rw [h3, hbits], h5⟩

theorem putSymbol_literal {ct : CType} {s : State} (h : SpacesOk s) (htab : s.tables = implodeTables ct)
    (hp : s.bc.partialByte.toNat < 2 ^ s.bc.bitsFilled.toNat) (b : Byte) :
    ∃ t, putSymbol b.toNat s = some t ∧ SpacesOk t ∧ t.bc.partialByte.toNat < 2 ^ t.bc.bitsFilled.toNat
      ∧ t.outBits = s.outBits ++ encodeItem (literalItem ct b) ∧ t = { s with bc := t.bc, output := t.output } := by
  have hl : b.toNat < (codeTable ct).length := by rw [codeTable_length, Config.nSym]; have := b.isLt; omega
  exact putSymbol_spec h htab hp (List.getElem?_eq_getElem hl) (by rw [codeTable_literal]; exact literalEntry_bits ct b)

theorem putSymbol_length {ct : CType} {s : State} (h : SpacesOk s) (htab : s.tables = implodeTables ct)
    (hp : s.bc.partialByte.toNat < 2 ^ s.bc.bitsFilled.toNat) {i e : Nat} (hi : i < 16) (he : e < 2 ^ romAt exLenBits i) :
    ∃ t, putSymbol (0x100 + (lenBase i + e)) s = some t ∧ SpacesOk t
      ∧ t.bc.partialByte.toNat < 2 ^ t.bc.bitsFilled.toNat
      ∧ t.outBits = s.outBits ++ encodeItem (if i = 15 ∧ e = 255 then .eos else .len i e)
      ∧ t = { s with bc := t.bc, output := t.output } := by
  obtain ⟨entry, h1, h2⟩ := lengthEntry_bits hi he
  exact putSymbol_spec h htab hp (by rw [codeTable_length_entry, h1]) h2

/-- Every match length is the length of exactly the buckets and extra values the format gives (R100). -/
theorem matchLength_exists {len : Nat} (h1 : Config.minLen ≤ len) (h2 : len ≤ Config.maxLen) :
    ∃ i e, i < 16 ∧ e < 2 ^ romAt exLenBits i ∧ ¬(i = 15 ∧ e = 255) ∧ matchLength i e = len := by
  have h : ∀ n : Fin 517, ∃ i : Fin 16, ∃ e : Fin 256,
      e.val < 2 ^ romAt exLenBits i.val ∧ ¬(i.val = 15 ∧ e.val = 255) ∧ matchLength i.val e.val = n.val + 2 := by
    have hd : ∀ n : Fin 517, ((List.range 16).any fun i => decide (lenBase i ≤ n.val) &&
        decide (n.val - lenBase i < 2 ^ romAt exLenBits i)) = true := by decide +kernel
    intro n
    obtain ⟨i, hi, hc⟩ := List.any_eq_true.1 (hd n)
    rw [List.mem_range] at hi
    simp only [Bool.and_eq_true, decide_eq_true_eq] at hc
    have hsmall : 2 ^ romAt exLenBits i ≤ 256 := by interval_cases i <;> decide
    refine ⟨⟨i, hi⟩, ⟨n.val - lenBase i, by omega⟩, hc.2, ?_, ?_⟩
    · rintro ⟨h15, h255⟩
      simp only at h15 h255
      subst h15
      have : lenBase 15 = 262 := by decide
      have := n.isLt
      omega
    · simp only [matchLength]; omega
  simp only [Config.minLen, Config.maxLen] at h1 h2
  obtain ⟨i, e, a, b, c⟩ := h ⟨len - 2, by omega⟩
  exact ⟨i, e, i.isLt, a, b, by rw [c]; simp only; omega⟩

/-! ## Distances -/

theorem distWidth_bits_le (l2 : Bool) (len : Nat) (ds : DSize) : widthBits (distWidth l2 len ds) ≤ 6 := by
  unfold distWidth
  split
  · decide
  · cases ds <;> decide

theorem dist_rom_small : ∀ c : Fin 64, romAt distBits c.val ≤ 8 ∧ romAt distCode c.val < 2 ^ 8 := by decide +kernel

theorem lowValue_lowOf (w : DistWidth) (v : Nat) : lowValue (lowOf w v) = v % 2 ^ widthBits w := by
  cases w <;> simp [lowOf, lowValue, widthBits]

/-- The offset that `putDistance` writes is the one the DIST item has (R98, R101, R158). -/
theorem matchOffset_lowOf (w : DistWidth) {off : Nat} (h1 : 1 ≤ off) :
    matchOffset ((off - 1) >>> widthBits w) (lowOf w ((off - 1) % 2 ^ widthBits w)) = off := by
  rw [matchOffset, rawDistance, lowWidth_lowOf, lowValue_lowOf, Nat.mod_mod, Nat.shiftRight_eq_div_pow,
    ← Nat.shiftLeft_add_eq_or_of_lt (Nat.mod_lt _ (Nat.two_pow_pos _)), Nat.shiftLeft_eq,
    Nat.div_add_mod' (off - 1) (2 ^ widthBits w)]
  omega

/-- What putting a distance does (R158). -/
theorem putDistance_spec (w : DistWidth) {off : Nat} {s : State} (h : SpacesOk s)
    (hp : s.bc.partialByte.toNat < 2 ^ s.bc.bitsFilled.toNat) (hc : (off - 1) >>> widthBits w < 64) :
    SpacesOk (putDistance w off s)
      ∧ (putDistance w off s).bc.partialByte.toNat < 2 ^ (putDistance w off s).bc.bitsFilled.toNat
      ∧ (putDistance w off s).outBits = s.outBits
          ++ encodeItem (.dist ((off - 1) >>> widthBits w) (lowOf w ((off - 1) % 2 ^ widthBits w)))
      ∧ putDistance w off s = { s with bc := (putDistance w off s).bc, output := (putDistance w off s).output } := by
  obtain ⟨r1, r2⟩ := dist_rom_small ⟨_, hc⟩
  simp only at r1 r2
  have hw : widthBits w ≤ 6 := by cases w <;> decide
  have hm : (off - 1) % 2 ^ widthBits w < 2 ^ 16 :=
    (Nat.mod_lt _ (Nat.two_pow_pos _)).trans_le (Nat.pow_le_pow_right (by omega) (by omega))
  obtain ⟨a1, a2, a3, -, a5⟩ := putBits_spec (romAt distBits ((off - 1) >>> widthBits w))
    (BitVec.ofNat 16 (romAt distCode ((off - 1) >>> widthBits w))) h hp
  obtain ⟨b1, b2, b3, -, b5⟩ := putBits_spec (widthBits w) (BitVec.ofNat 16 ((off - 1) % 2 ^ widthBits w)) a1 a2
  refine ⟨b1, b2, ?_, cursorFrame_trans a5 b5⟩
  show (putBits _ _ (putBits _ _ s)).outBits = _
  rw [b3, a3, BitVec.toNat_ofNat, BitVec.toNat_ofNat, Nat.mod_eq_of_lt (show romAt distCode _ < 2 ^ 16 by omega),
    Nat.mod_eq_of_lt hm, encodeItem, lowWidth_lowOf, lowValue_lowOf, Nat.mod_mod, List.append_assoc]

/-! ## The emission of one item -/

/-- An IMPLODE engine with a stream started and its window in step with the position. -/
structure Emitting (ct : CType) (s : State) : Prop where
  spaces : SpacesOk s
  tables : s.tables = implodeTables ct
  cursor : s.bc.partialByte.toNat < 2 ^ s.bc.bitsFilled.toNat
  window : s.win.len = s.ipos
  base_le : s.input.base ≤ s.ipos

/-- `emitLiteral` (R269). -/
theorem emitLiteral_spec {ct : CType} {s : State} (h : Emitting ct s) (hlt : s.ipos < s.input.total) :
    ∃ t b, emitLiteral s = .next t ∧ s.input.mem.read s.ipos = some b
      ∧ t = { s with bc := t.bc, output := t.output, win := t.win, ipos := s.ipos + 1 } ∧ Emitting ct t
      ∧ t.outBits = s.outBits ++ encodeItem (literalItem ct b)
      ∧ (∀ a, a < s.win.len → t.win.mem.read a = s.win.mem.read a) ∧ t.win.mem.read s.ipos = some b := by
  have hw := h.window
  obtain ⟨b, hb⟩ := streamByte_some h.spaces (by rw [hw]; exact h.base_le) hlt
  have hread : s.input.mem.read s.ipos = some b := by
    rw [← hb, State.streamByte, if_neg (by omega)]
  obtain ⟨u, hu, u1, u2, u3, u4⟩ := putSymbol_literal h.spaces h.tables h.cursor b
  have uwin : u.win = s.win := by rw [u4]
  have hsp := u1.winAppend b
  have hwr : ∀ a, (u.winAppend b).win.mem.read a = if a = s.win.len then some b else s.win.mem.read a := by
    intro a; rw [← uwin]; exact Memory.read_write _ _ _ _
  have hlen : (u.winAppend b).win.len = s.win.len + 1 := by rw [← uwin]; rfl
  refine ⟨{ u.winAppend b with ipos := s.ipos + 1 }, b, by simp only [emitLiteral, hb, hu], hread, ?_, ?_, u3, ?_, ?_⟩
  · obtain ⟨x, y, rfl⟩ : ∃ x y, u = { s with bc := x, output := y } := ⟨_, _, u4⟩
    rfl
  · have uin : u.input = s.input := by rw [u4]
    have utab : u.tables = s.tables := by rw [u4]
    exact ⟨hsp.congr rfl rfl rfl, utab.trans h.tables, u2, by show (u.winAppend b).win.len = _; rw [hlen, hw],
      by show u.input.base ≤ _; rw [uin]; exact h.base_le.trans (Nat.le_succ _)⟩
  · intro a ha
    show (u.winAppend b).win.mem.read a = _
    rw [hwr, if_neg (by omega)]
  · show (u.winAppend b).win.mem.read s.ipos = _
    rw [hwr, if_pos hw.symm]

/-- `emitMatch` (R270): bucket `i` with extra value `e` is the length. -/
theorem emitMatch_spec {ct : CType} {s : State} (h : Emitting ct s) (ds : DSize) {i e off : Nat} (hi : i < 16)
    (he : e < 2 ^ romAt exLenBits i) (hne : ¬(i = 15 ∧ e = 255)) (h1 : 1 ≤ off)
    (ho : (off - 1) >>> widthBits (distWidth s.len2Short (matchLength i e) ds) < 64)
    (hle : s.ipos + matchLength i e ≤ s.input.total) :
    ∃ t low, emitMatch ds (matchLength i e) off s = .next t
      ∧ lowWidth low = distWidth s.len2Short (matchLength i e) ds
      ∧ matchOffset ((off - 1) >>> widthBits (distWidth s.len2Short (matchLength i e) ds)) low = off
      ∧ t = { s with bc := t.bc, output := t.output, win := t.win, ipos := s.ipos + matchLength i e } ∧ Emitting ct t
      ∧ t.outBits = s.outBits ++ encodeItem (.len i e)
          ++ encodeItem (.dist ((off - 1) >>> widthBits (distWidth s.len2Short (matchLength i e) ds)) low)
      ∧ (∀ a, a < s.win.len → t.win.mem.read a = s.win.mem.read a)
      ∧ (∀ j, j < matchLength i e → t.win.mem.read (s.ipos + j) = s.input.mem.read (s.ipos + j)) := by
  have hw := h.window
  obtain ⟨u, hu, u1, u2, u3, u4⟩ := putSymbol_length h.spaces h.tables h.cursor hi he
  rw [if_neg hne] at u3
  generalize hwd : distWidth s.len2Short (matchLength i e) ds = w at ho ⊢
  obtain ⟨v1, v2, v3, v4⟩ := putDistance_spec w u1 u2 ho
  have v5 := cursorFrame_trans u4 v4
  generalize hv : putDistance w off u = v at v1 v2 v3 v4 v5
  have vwin : v.win = s.win := by rw [v5]
  have vin : v.input = s.input := by rw [v5]
  have vtab : v.tables = s.tables := by rw [v5]
  obtain ⟨t, t1, t2, t3, t4, t5, t6⟩ := consumeBytes_spec (matchLength i e) v1 (by rw [vwin, vin, hw]; exact h.base_le)
    (by rw [vwin, vin, hw]; exact hle)
  have hsym : lengthSymbol (matchLength i e) = 0x100 + (lenBase i + e) := by
    simp only [lengthSymbol, matchLength]; omega
  have hemit : emitMatch ds (matchLength i e) off s = .next { t with ipos := s.ipos + matchLength i e } := by
    simp only [emitMatch, hsym, hu, hwd, hv]
    rw [show s.ipos = v.win.len by rw [vwin, hw], t1]
  have tbc : t.bc = v.bc := by rw [t2]
  have tout : t.output = v.output := by rw [t2]
  have tin : t.input = v.input := by rw [t2]
  have ttab : t.tables = v.tables := by rw [t2]
  refine ⟨_, lowOf w ((off - 1) % 2 ^ widthBits w), hemit, lowWidth_lowOf _ _, matchOffset_lowOf w h1, ?_, ?_, ?_, ?_, ?_⟩
  · obtain ⟨x, y, rfl⟩ : ∃ x y, v = { s with bc := x, output := y } := ⟨_, _, v5⟩
    obtain ⟨z, rfl⟩ : ∃ z, t = { s with bc := x, output := y, win := z } := ⟨_, t2⟩
    rfl
  · refine ⟨t3.congr rfl rfl rfl, (ttab.trans vtab).trans h.tables, ?_, ?_, ?_⟩
    · show t.bc.partialByte.toNat < 2 ^ t.bc.bitsFilled.toNat
      rw [tbc]; exact v2
    · show t.win.len = s.ipos + matchLength i e
      rw [t4, vwin, hw]
    · show t.input.base ≤ s.ipos + matchLength i e
      rw [tin, vin]; exact h.base_le.trans (Nat.le_add_right _ _)
  · have : State.outBits { t with ipos := s.ipos + matchLength i e } = v.outBits := by
      simp only [State.outBits, tbc, tout]
    rw [this, v3, u3]
  · intro a ha
    have := t5 a (by rw [vwin]; exact ha)
    rw [vwin] at this
    exact this
  · intro j hj
    have := t6 j hj
    rw [vwin, vin, hw] at this
    exact this

/-- `emitEOS` (R271). -/
theorem emitEos_spec {ct : CType} {s : State} (h : Emitting ct s) :
    ∃ t, emitEos s = some t ∧ SpacesOk t ∧ t.bc.partialByte.toNat < 2 ^ t.bc.bitsFilled.toNat
      ∧ t.outBits = s.outBits ++ encodeItem .eos
      ∧ t = { s with bc := t.bc, output := t.output, flags := { s.flags with eosSeen := true } } := by
  obtain ⟨u, hu, u1, u2, u3, u4⟩ := putSymbol_length h.spaces h.tables h.cursor (i := 15) (e := 255) (by decide) (by decide)
  rw [if_pos ⟨rfl, rfl⟩] at u3
  have hs : 0x100 + (lenBase 15 + 255) = Config.eosSym := by decide
  rw [hs] at hu
  refine ⟨u.setEosSeen, by rw [emitEos, hu]; rfl, u1.congr rfl rfl rfl, u2, u3, ?_⟩
  obtain ⟨x, y, rfl⟩ : ∃ x y, u = { s with bc := x, output := y } := ⟨_, _, u4⟩
  rfl

end Sys2Proof.Machine
end

