-- ==== Sys2Proof/Laws/Prefix.lean ====
section
/-! SUPPORT. Table lookup on peeked bits is prefix matching: what a lookup selects, slot by slot (R148, R156, R157, R181,
R183). -/

namespace Sys2Proof

open Machine

/-! ## Peeked bits (R123) -/

theorem peekBits_lt (n : Nat) (bs : Bits) : peekBits n bs < 2 ^ n :=
  (bitsValue_lt _).trans_le (Nat.pow_le_pow_right (by omega) (by simp))

/-- Fewer peeked bits are the low bits of more. -/
theorem peekBits_mod {m n : Nat} (h : m ≤ n) (bs : Bits) : peekBits n bs % 2 ^ m = peekBits m bs := by
  have hs : bs.take n = bs.take m ++ (bs.take n).drop m := by
    have := (List.take_append_drop m (bs.take n)).symm
    rwa [List.take_take, Nat.min_eq_left h] at this
  unfold peekBits
  conv => lhs; rw [hs, bitsValue_append]
  rcases Nat.lt_or_ge bs.length m with hl | hl
  · have hd : (bs.take n).drop m = [] := List.drop_eq_nil_of_le (by simp; omega)
    rw [hd]
    simp only [bitsValue, Nat.mul_zero, Nat.add_zero]
    exact Nat.mod_eq_of_lt (peekBits_lt m bs)
  · rw [List.length_take, Nat.min_eq_left hl, Nat.add_mul_mod_self_left]
    exact Nat.mod_eq_of_lt (peekBits_lt m bs)

/-- Peeking after a skip is peeking further and dropping the low bits. -/
theorem peekBits_drop (n k : Nat) (bs : Bits) : peekBits n (bs.drop k) = peekBits (k + n) bs / 2 ^ k := by
  unfold peekBits
  have hs : bs.take (k + n) = bs.take k ++ (bs.drop k).take n := by rw [List.take_add]
  rw [hs, bitsValue_append]
  rcases Nat.lt_or_ge bs.length k with hl | hl
  · have hd : bs.drop k = [] := List.drop_eq_nil_of_le (by omega)
    rw [hd]
    simp only [List.take_nil, bitsValue, Nat.mul_zero, Nat.add_zero]
    exact (Nat.div_eq_of_lt (peekBits_lt k bs)).symm
  · rw [List.length_take, Nat.min_eq_left hl, Nat.add_mul_div_left _ _ (Nat.two_pow_pos k),
      Nat.div_eq_of_lt (show bitsValue (bs.take k) < 2 ^ k from peekBits_lt k bs), Nat.zero_add]

/-- A code of `m` bits that stands first is the low bits peeked. -/
theorem peekBits_prefix {m n : Nat} (h : m ≤ n) (v : Nat) (rest : Bits) :
    peekBits n (natBits m v ++ rest) % 2 ^ m = v % 2 ^ m := by
  rw [peekBits_mod h, peekBits, List.take_append_of_le_length (by rw [natBits_length]),
    List.take_of_length_le (by rw [natBits_length]), bitsValue_natBits]

/-- If the low bits peeked are a code that is wholly there, the code stands first. -/
theorem prefix_of_peekBits {m n v : Nat} {bs : Bits} (h : m ≤ n) (hl : m ≤ bs.length)
    (hp : peekBits n bs % 2 ^ m = v) : bs = natBits m v ++ bs.drop m := by
  rw [peekBits_mod h] at hp
  have := natBits_bitsValue (bs.take m)
  rw [List.length_take, Nat.min_eq_left hl] at this
  rw [← hp, peekBits, this, List.take_append_drop]

theorem takeBits_append (n v : Nat) (rest : Bits) : takeBits n (natBits n v ++ rest) = some (v % 2 ^ n, rest) := by
  rw [takeBits, if_pos (by simp [natBits_length]), List.take_append_of_le_length (by rw [natBits_length]),
    List.take_of_length_le (by rw [natBits_length]), bitsValue_natBits,
    List.drop_append_of_le_length (by rw [natBits_length]), List.drop_of_length_le (by rw [natBits_length]), List.nil_append]

theorem skipBits_append (n v : Nat) (rest : Bits) : skipBits n (natBits n v ++ rest) = some rest := by
  rw [skipBits, if_pos (by simp [natBits_length]), List.drop_append_of_le_length (by rw [natBits_length]),
    List.drop_of_length_le (by rw [natBits_length]), List.nil_append]

/-! ## The length and distance lookup tables -/

theorem lenLut_slots : ∀ x : Fin 256, ∃ i : Fin 16, lenLut[x.val]? = some (BitVec.ofNat 4 i.val) ∧
    x.val % 2 ^ romAt lenBits i.val = romAt lenCode i.val ∧
    ∀ j : Fin 16, x.val % 2 ^ romAt lenBits j.val = romAt lenCode j.val → j = i := by decide +kernel

theorem distLut_slots : ∀ x : Fin 256, ∃ i : Fin 64, distLut[x.val]? = some (BitVec.ofNat 6 i.val) ∧
    x.val % 2 ^ romAt distBits i.val = romAt distCode i.val ∧
    ∀ j : Fin 64, x.val % 2 ^ romAt distBits j.val = romAt distCode j.val → j = i := by decide +kernel

/-- What the length table selects on peeked bits: the one bucket whose code they begin with. -/
theorem lenLut_select (bs : Bits) : ∃ i, i < 16 ∧ lenLut[peekBits 8 bs]? = some (BitVec.ofNat 4 i)
    ∧ (BitVec.ofNat 4 i).toNat = i ∧ peekBits 8 bs % 2 ^ romAt lenBits i = romAt lenCode i
    ∧ ∀ j, j < 16 → peekBits 8 bs % 2 ^ romAt lenBits j = romAt lenCode j → j = i := by
  obtain ⟨i, h1, h2, h3⟩ := lenLut_slots ⟨peekBits 8 bs, peekBits_lt 8 bs⟩
  exact ⟨i.val, i.isLt, h1, by rw [BitVec.toNat_ofNat]; exact Nat.mod_eq_of_lt i.isLt, h2,
    fun j hj h => congrArg Fin.val (h3 ⟨j, hj⟩ h)⟩

/-- What the distance table selects on peeked bits. -/
theorem distLut_select (bs : Bits) : ∃ c, c < 64 ∧ distLut[peekBits 8 bs]? = some (BitVec.ofNat 6 c)
    ∧ (BitVec.ofNat 6 c).toNat = c ∧ peekBits 8 bs % 2 ^ romAt distBits c = romAt distCode c
    ∧ ∀ j, j < 64 → peekBits 8 bs % 2 ^ romAt distBits j = romAt distCode j → j = c := by
  obtain ⟨i, h1, h2, h3⟩ := distLut_slots ⟨peekBits 8 bs, peekBits_lt 8 bs⟩
  exact ⟨i.val, i.isLt, h1, by rw [BitVec.toNat_ofNat]; exact Nat.mod_eq_of_lt i.isLt, h2,
    fun j hj h => congrArg Fin.val (h3 ⟨j, hj⟩ h)⟩

theorem len_rom_small : ∀ i : Fin 16, romAt lenBits i.val ≤ 7 ∧ romAt lenCode i.val < 2 ^ romAt lenBits i.val := by
  decide +kernel

theorem dist_rom_fits : ∀ c : Fin 64, romAt distBits c.val ≤ 8 ∧ romAt distCode c.val < 2 ^ romAt distBits c.val := by
  decide +kernel

/-! ## The ASCII tables -/

/-- The slot that 13 peeked bits select, with the code bits already skipped: the branches of R182. -/
def asciiSelect (p : Nat) : Nat × Option Byte :=
  if p % 256 = 0 then (8, asciiTables.t2eb4.getD (p / 256) none)
  else if asciiTables.t2c34.getD (p % 256) none = some 0xFF then
    if p % 64 = 0 then (6, asciiTables.t2e34.getD (p / 64) none) else (4, asciiTables.t2d34.getD (p / 16 % 256) none)
  else (0, asciiTables.t2c34.getD (p % 256) none)

/-- The selected literal's code stands first, and the bits skipped in all are the code's. -/
def asciiSelectOk (p : Nat) : Bool :=
  match asciiSelect p with
  | (_, none) => false
  | (skip, some v) => p % 2 ^ romAt chBitsAsc v.toNat == romAt chCodeAsc v.toNat
      && skip + (asciiTables.chBits.getD v.toNat 0).toNat == romAt chBitsAsc v.toNat

/-- Where the code of literal `u` stands first, `u` is selected. -/
def asciiCodeOk (u : Nat) : Bool :=
  (List.range (2 ^ (13 - romAt chBitsAsc u))).all fun k =>
    (asciiSelect (romAt chCodeAsc u + k * 2 ^ romAt chBitsAsc u)).2 == some (BitVec.ofNat 8 u)

set_option maxRecDepth 20000 in
theorem ascii_select_ok : (List.range 8192).all asciiSelectOk = true := by decide +kernel

set_option maxRecDepth 20000 in
theorem ascii_code_ok : (List.range 256).all asciiCodeOk = true := by decide +kernel

theorem ascii_rom_fits : ∀ n : Fin 256, romAt chBitsAsc n.val ≤ 13
    ∧ romAt chCodeAsc n.val < 2 ^ romAt chBitsAsc n.val := by decide +kernel

set_option maxRecDepth 20000 in
theorem t2eb4_period : ∀ x : Fin 256, asciiTables.t2eb4.getD x.val none = asciiTables.t2eb4.getD (x.val % 32) none := by
  decide +kernel

/-- What the five tables select on 13 peeked bits: the one literal whose code they begin with (R181, R183). -/
theorem asciiSelect_spec {p : Nat} (hp : p < 2 ^ 13) : ∃ skip v, asciiSelect p = (skip, some v)
    ∧ p % 2 ^ romAt chBitsAsc v.toNat = romAt chCodeAsc v.toNat
    ∧ skip + (asciiTables.chBits.getD v.toNat 0).toNat = romAt chBitsAsc v.toNat
    ∧ ∀ u : Byte, p % 2 ^ romAt chBitsAsc u.toNat = romAt chCodeAsc u.toNat → u = v := by
  have h := List.all_eq_true.1 ascii_select_ok p (List.mem_range.2 (by simpa using hp))
  unfold asciiSelectOk at h
  split at h
  · cases h
  · rename_i skip v hs
    simp only [Bool.and_eq_true, beq_iff_eq] at h
    refine ⟨skip, v, hs, h.1, h.2, ?_⟩
    intro u hu
    obtain ⟨f1, -⟩ := ascii_rom_fits ⟨u.toNat, u.isLt⟩
    simp only at f1
    have hk := List.all_eq_true.1 ascii_code_ok u.toNat (List.mem_range.2 u.isLt)
    have hdiv : p / 2 ^ romAt chBitsAsc u.toNat < 2 ^ (13 - romAt chBitsAsc u.toNat) := by
      rw [Nat.div_lt_iff_lt_mul (Nat.two_pow_pos _), ← Nat.pow_add, Nat.sub_add_cancel f1]
      exact hp
    have := List.all_eq_true.1 hk _ (List.mem_range.2 hdiv)
    rw [← hu, Nat.mod_add_div' p (2 ^ romAt chBitsAsc u.toNat), hs] at this
    simpa using (beq_iff_eq.1 this).symm

end Sys2Proof
end

