-- ==== Sys2Proof/Laws/Fetch.lean ====
section
/-! SUPPORT. What a fetch gives and what a step is in each kind of transaction, and the small facts about items, header
bytes and good states that a proof about a step needs. -/

namespace Sys2Proof.Machine

/-! ## Header bytes -/

/-- A byte that names no compression type (R91). -/
theorem ctypeOf_none {b : Byte} (h : b ≠ 0 ∧ b ≠ 1) : ctypeOf b = none := by
  rw [ctypeOf, if_neg h.1, if_neg h.2]

/-- A byte that names a compression type is its code. -/
theorem ctypeOf_some {b : Byte} (h : b = 0 ∨ b = 1) : ∃ c, ctypeOf b = some c ∧ ctypeCode c = b := by
  rcases h with rfl | rfl
  · exact ⟨.binary, rfl, rfl⟩
  · exact ⟨.ascii, rfl, rfl⟩

/-- A byte that names no dictionary-size class (R92). -/
theorem dsizeOf_none {b : Byte} (h : b ≠ 4 ∧ b ≠ 5 ∧ b ≠ 6) : dsizeOf b = none := by
  rw [dsizeOf, if_neg h.1, if_neg h.2.1, if_neg h.2.2]

/-- A byte that names a dictionary-size class is its code. -/
theorem dsizeOf_some {b : Byte} (h : b = 4 ∨ b = 5 ∨ b = 6) : ∃ c, dsizeOf b = some c ∧ dsizeCode c = b := by
  rcases h with rfl | rfl | rfl
  · exact ⟨.small, rfl, rfl⟩
  · exact ⟨.medium, rfl, rfl⟩
  · exact ⟨.large, rfl, rfl⟩

/-- Before the header is parsed every byte received is still in `IN`. -/
theorem byteAt {s : State} (h : SpacesOk s) (hb : s.input.base = 0) {k : Nat} (hk : k < s.input.total) : ∃ b,
    s.input.mem.read k = some b :=
  Memory.covers_read_some h.input (by omega) (by have := h.base_le; omega)

/-- Eight bits taken on a byte boundary are the byte. -/
theorem fetch_byte {s : State} {k : Nat} {b : Byte} (hb : s.input.mem.read k = some b) (hk : k < s.input.total) :
   takeBits 8 (s.bitsFrom Config.fetchSpan (8*k)) = some (b.toNat, s.bitsFrom 24 (8*k+8)) := by
  have h8 := bitsFrom_byte hb hk
  have hl : (s.bitsFrom 8 (8*k)).length = 8 := by rw [h8, natBits_length]
  have := bitsFrom_append s 8 24 (8*k) hl
  rw [show Config.fetchSpan = 8 + 24 from rfl, this, takeBits, if_pos (by simp [hl])]
  have e1 : (s.bitsFrom 8 (8*k) ++ s.bitsFrom 24 (8*k+8)).take 8 = s.bitsFrom 8 (8*k) := by
    conv => lhs; rw [← hl]
    rw [hl, List.take_append_of_le_length (by omega), List.take_of_length_le (by omega)]
  have e2 : (s.bitsFrom 8 (8*k) ++ s.bitsFrom 24 (8*k+8)).drop 8 = s.bitsFrom 24 (8*k+8) := by
    rw [List.drop_append_of_le_length (by omega), List.drop_of_length_le (by omega)]; rfl
  rw [e1, e2, h8, bitsValue_natBits, Nat.mod_eq_of_lt b.isLt]

/-- What the fetch of header byte 0 gives (R205). -/
theorem fetch_hdr0 {s : State} {b} (h0 : s.input.mem.read 0 = some b) (hk : 0 < s.input.total) :
   s.fetch .hdr0 = (match ctypeOf b with | none => .badCompressionType b | some ct => .item (.hdr0 ct) (s.bitsFrom 24 8)) := by
  have := fetch_byte h0 hk
  simp only [State.fetch, decode, decodeHdr0, State.fetchBits, State.itemStart]
  rw [Nat.mul_zero] at this
  rw [this]
  simp only [BitVec.ofNat_toNat, BitVec.setWidth_eq]
  all_goals cases ctypeOf b <;> rfl

/-- What the fetch of header byte 1 gives (R205). -/
theorem fetch_hdr1 {s : State} {b} (h0 : s.input.mem.read 1 = some b) (hk : 1 < s.input.total) :
   s.fetch .hdr1 = (match dsizeOf b with | none => .badDictionarySize b | some ct => .item (.hdr1 ct) (s.bitsFrom 24 16)) := by
  have := fetch_byte h0 hk
  simp only [State.fetch, decode, decodeHdr1, State.fetchBits, State.itemStart]
  rw [Nat.mul_one] at this
  rw [this]
  simp only [BitVec.ofNat_toNat, BitVec.setWidth_eq]
  all_goals cases dsizeOf b <;> rfl

/-! ## What a step is -/

/-- Between transactions. -/
theorem engine_idle {s : State} (h : s.activity = .idle) : engineStep s = idleStep s := by simp [engineStep, h]

/-- The oldest request is accepted. -/
theorem idle_req {s : State} {r rest} (h : s.activity = .idle) (hr : s.requests = r :: rest) : engineStep s = accept r
    {s with requests := rest} := by
  rw [engine_idle h, idleStep, hr]

/-- Inside a `feed` of an EXPLODE engine. -/
theorem engine_feed {s : State} (hk : s.kind = some .explode) (h : s.activity = .feed) : engineStep s = explodeFeed s := by
  simp [engineStep, feedStep, h, hk]

/-- Where an item is due, the step is decided by its fetch. -/
theorem engine_place {s : State} {p} (hp : s.place = some p) : engineStep s = afterFetch (s.fetch p) s := by
  obtain ⟨hk, ha, he⟩ := place_some hp
  rw [engine_feed hk ha, explodeFeed, hp]

/-- Inside a `finish` of an EXPLODE engine. -/
theorem engine_finish {s : State} (hk : s.kind = some .explode) (h : s.activity = .finish) : engineStep s = explodeFinish s := by
  simp [engineStep, finishStep, h, hk]

/-- Inside a `feed` of an IMPLODE engine. -/
theorem engine_impl_feed {s : State} (hk : s.kind = some .implode) (h : s.activity = .feed) : engineStep s = implodeFeed s := by
  simp [engineStep, feedStep, h, hk]

/-- Inside a `finish` of an IMPLODE engine. -/
theorem engine_impl_finish {s : State} (hk : s.kind = some .implode) (h : s.activity = .finish) : engineStep s = implodeFinish s := by
  simp [engineStep, finishStep, h, hk]

/-- After EOS a `feed` ends (R236). -/
theorem engine_after_eos {u : State} (hk : u.kind = some .explode) (ha : u.activity = .feed) (he : u.flags.eosSeen = true) :
    engineStep u = .next (u.setNeedsMore false).deliver := by
  rw [engine_feed hk ha, explodeFeed]
  have : u.place = none := by simp [State.place, he]
  rw [this]
  exact if_pos he

/-- `finish` enters `Flushing` (R230). -/
theorem engine_fin_streaming {u : State} (hk : u.kind = some .explode) (ha : u.activity = .finish)
    (hp : u.phase = .streaming) : engineStep u = .next (u.setPhase .flushing) := by
  rw [engine_finish hk ha, explodeFinish, hp]

/-- `Flushing` chooses between `Done` and the error (R230). -/
theorem engine_fin_flushing {u : State} (hk : u.kind = some .explode) (ha : u.activity = .finish) (hp : u.phase = .flushing) :
    engineStep u = if u.flags.eosSeen then .next (u.setPhase .done).deliver else .next (raise .truncatedStream u) := by
  rw [engine_finish hk ha, explodeFinish, hp]

/-- An empty chunk (R298). -/
theorem accept_feed_nil {s : State} (hk : s.kind ≠ none) (hf : s.phase ≠ .failed) (he : s.flags.streamEnded = false) :
    acceptFeed [] s = .next (s.reply { producedOutput := [], error := none }) := by
  rw [acceptFeed, if_neg hk, if_neg hf, if_neg (by rw [he]; simp), if_pos rfl]

/-- A chunk (R293). -/
theorem accept_feed {s : State} {c} (hk : s.kind ≠ none) (hf : s.phase ≠ .failed) (he : s.flags.streamEnded = false)
    (hc : c ≠ []) : acceptFeed c s = .next (s.beginFeed c) := by
  rw [acceptFeed, if_neg hk, if_neg hf, if_neg (by rw [he]; simp), if_neg hc]

/-- `finish` (R294). -/
theorem accept_finish {s : State} (hk : s.kind ≠ none) (hf : s.phase ≠ .failed) (he : s.flags.streamEnded = false) :
    acceptFinish s = .next s.beginFinish := by
  rw [acceptFinish, if_neg hk, if_neg hf, if_neg (by rw [he]; simp)]

/-! ## Items -/

/-- The `dlow` field is its width and value. -/
theorem lowOf_lowValue (low : DistLow) : lowOf (lowWidth low) (lowValue low) = low := by
  cases low <;> simp [lowOf, lowWidth, lowValue]

/-- A `dlow` value fits its width. -/
theorem lowValue_lt (low : DistLow) : lowValue low < 2 ^ widthBits (lowWidth low) := by cases low <;> exact BitVec.isLt _

/-- The operands of every instruction are in the range of its row. -/
theorem item_ranges (i : Instr) :
    match i.item with
    | .len k e => k < 16 ∧ e < 2 ^ romAt exLenBits k
    | .dist c _ => c < 64
    | _ => True := by
  cases i <;> simp [Instr.item, romAt, exLenBits] <;>
    first | exact BitVec.isLt _ | (rename_i x; have := x.isLt; omega)

/-- A length symbol is EOS or a LEN item (R154). -/
theorem lengthItem_eq {i e : Nat} (hi : i < 16) (he : e < 2 ^ romAt exLenBits i) (rest : Bits) :
    lengthItem i e rest = if 0x100 + lenBase i + e = 0x305 then .item .eos rest else .item (Instr.len i e) rest := by
  have hb : lenBase i + e ≤ 517 := by
    interval_cases i <;> simp [lenBase, exLenBits, romAt] at * <;> omega
  unfold lengthItem
  by_cases h : 256 + lenBase i + e = 773
  · rw [if_pos h]; exact if_pos h
  · rw [if_neg h]; exact (if_neg h).trans (if_pos (by simp only [Config.eosSym]; omega))

/-- An item the decoder gives is well formed. -/
theorem wf_of_inRange {it : Item} (h : it.inRange) : it.wellFormed = true := by
  cases it <;> simp_all [Item.wellFormed, Item.inRange]
  obtain ⟨_, _, h⟩ := h
  tauto

/-- One bit taken. -/
theorem take1 {bs : Bits} {d rest} (h : takeBits 1 bs = some (d, rest)) : (d = 0 ∧ bs = false :: rest) ∨
    (d = 1 ∧ bs = true :: rest) := by
  cases bs with
  | nil => simp [takeBits] at h
  | cons b bs =>
    simp [takeBits, bitsValue] at h
    obtain ⟨rfl, rfl⟩ := h
    cases b <;> simp

/-- A code selected by peeked bits and skipped stands first. -/
theorem skip_split {n v : Nat} {bs after : Bits} {m} (hn : n ≤ m) (h : skipBits n bs = some after)
    (hp : peekBits m bs % 2 ^ n = v) : bs = natBits n v ++ after := by
  obtain ⟨h1, rfl⟩ := skipBits_eq_some.1 h
  exact prefix_of_peekBits hn h1 hp

/-- The offset of a DIST item as a sum (R98, R101). -/
theorem raw_eq (c : Nat) (low : DistLow) : matchOffset c low = c * 2 ^ widthBits (lowWidth low) + lowValue low + 1 := by
  rw [matchOffset, rawDistance, ← Nat.shiftLeft_add_eq_or_of_lt (lowValue_lt low), Nat.shiftLeft_eq]

/-! ## Good states -/

/-- Every length of the format is a match length (R100). -/
theorem len_range {i e : Nat} (h1 : i < 16) (h2 : e < 2 ^ romAt exLenBits i) (h3 : ¬(i = 15 ∧ e = 255)) :
    Config.minLen ≤ matchLength i e ∧ matchLength i e ≤ Config.maxLen := by
  simp only [matchLength, Config.minLen, Config.maxLen]
  refine ⟨by omega, ?_⟩
  interval_cases i <;> simp [lenBase, exLenBits, romAt] at * <;> omega

/-- `Streaming` is not `Failed`. -/
theorem not_failed_streaming {s : State} (h : s.phase = .streaming) : s.phase ≠ .failed := by rw [h]; simp

/-- An item due in `Streaming` starts inside the input. -/
theorem start_le {s : State} (h : Inv s) (hp : s.place = some p) (hph : s.phase = .streaming) :
    8 * s.input.base ≤ s.itemStart p ∧ s.itemStart p ≤ 8 * s.input.total ∧ s.ipos ≤ s.itemStart p ∨ p = .hdr0 ∨ p = .hdr1 := by
  obtain ⟨hk, ha, he⟩ := place_some hp
  obtain ⟨d, r, b, n, pm⟩ := h.explode hk (not_failed_streaming hph)
  obtain ⟨a1, a2, a3, a4⟩ := r (by rw [hph]; simp)
  cases p with
  | hdr0 => simp
  | hdr1 => simp
  | symbol ct => left; simp only [State.itemStart]; omega
  | distance w =>
    left
    simp only [State.itemStart]
    cases hm : s.pending with
    | none => simp only; omega
    | some m =>
      have := pm m hm
      simp only; omega

/-- The items due before the header is parsed. -/
theorem place_awaiting {s : State} {p : Place} (h : s.place = some p) (hp : s.phase = .awaitingHeader) :
    (p = .hdr0 ∧ HeaderByteDue none s) ∨ (p = .hdr1 ∧ ∃ ct, HeaderByteDue (some ct) s) := by
  cases p with
  | hdr0 => exact .inl ⟨rfl, place_hdr0 h⟩
  | hdr1 => exact .inr ⟨rfl, place_hdr1 h⟩
  | symbol c => have := (place_symbol h).phase; rw [hp] at this; cases this
  | distance c => obtain ⟨m, ds, hd, -⟩ := place_distance h; have := hd.phase; rw [hp] at this; cases this

/-- A header byte is there to take. -/
theorem hdrBits (bs : Bits) (h : 24 ≤ bs.length) : ∃ v rest, takeBits 8 bs = some (v, rest) := by
  rw [takeBits, if_pos (by omega)]; exact ⟨_, _, rfl⟩

/-- A header byte that is due is there. -/
theorem fetch_bits_hdr {s : State} (h : Inv s) {f} (hd : HeaderByteDue f s) (start : Nat) (hst : start ≤ 8) : 24 ≤
    (s.bitsFrom Config.fetchSpan start).length := by
  obtain ⟨sp, c, e, i⟩ := h
  obtain ⟨d, r, b, n, p⟩ := e hd.kind (by rw [hd.phase]; simp)
  have := (d hd.phase).base
  rw [bitsFrom_length sp _ (by rw [this]; omega)]
  have := hd.enough
  simp [Config.hdrMinAvail, Config.fetchSpan] at *; omega

/-- What the fetch of a header byte that is due gives. -/
theorem fetch_header {s : State} (h : Inv s) (hp : s.place = some p) (hph : s.phase = .awaitingHeader) :
    (p = .hdr0 ∧ HeaderByteDue none s ∧
      ((∃ ct rest, s.fetch p = .item (.hdr0 ct) rest) ∨ ∃ b, s.fetch p = .badCompressionType b)) ∨
    (p = .hdr1 ∧ (∃ ct, HeaderByteDue (some ct) s) ∧
      ((∃ ds rest, s.fetch p = .item (.hdr1 ds) rest) ∨ ∃ b, s.fetch p = .badDictionarySize b)) := by
  rcases place_awaiting hp hph with ⟨rfl, hd⟩ | ⟨rfl, ct, hd⟩
  · left
    obtain ⟨v, rest, hv⟩ := hdrBits _ (fetch_bits_hdr h hd 0 (by omega))
    have : s.fetch .hdr0 = decodeHdr0 (s.bitsFrom Config.fetchSpan 0) := rfl
    refine ⟨rfl, hd, ?_⟩
    rw [this, decodeHdr0, hv]
    simp only
    cases hc : ctypeOf (BitVec.ofNat 8 v) with
    | none => exact .inr ⟨_, rfl⟩
    | some ct => exact .inl ⟨ct, rest, rfl⟩
  · right
    obtain ⟨v, rest, hv⟩ := hdrBits _ (fetch_bits_hdr h hd 8 (by omega))
    have : s.fetch .hdr1 = decodeHdr1 (s.bitsFrom Config.fetchSpan 8) := rfl
    refine ⟨rfl, ⟨ct, hd⟩, ?_⟩
    rw [this, decodeHdr1, hv]
    simp only
    cases hc : dsizeOf (BitVec.ofNat 8 v) with
    | none => exact .inr ⟨_, rfl⟩
    | some ds => exact .inl ⟨ds, rest, rfl⟩

/-- What the copy loop leaves alone. -/
theorem copyMatch_frame {count off : Nat} {s t : State} (h : SpacesOk s) (h1 : 1 ≤ off) (h2 : off ≤ s.win.len)
    (hc : copyBytes count off s = some t) :
   t = { s with win := t.win, output := t.output } ∧ SpacesOk t
      ∧ t.win.len = s.win.len + count ∧ t.output.count = s.output.count + count := by
  obtain ⟨t', e1, e2, e3, e4, e5, -⟩ := copyBytes_spec count h h1 h2
  rw [hc] at e1; cases e1
  exact ⟨e2, e3, e4, e5⟩

/-- A started IMPLODE engine is ready to emit. -/
theorem emitting {s : State} (h : ImplodeOk s) (hsp : SpacesOk s) (hph : s.phase ≠ .awaitingHeader) : ∃ ct ds, s.hdr =
    ⟨some ct, some ds⟩ ∧ Emitting ct s := by
  obtain ⟨ct, ds, hh, h1, h2⟩ := h.header
  exact ⟨ct, ds, hh, hsp, h2 hph, cursor_lt h.cursor, h.window, h.base_le⟩

/-- The host's queues are no part of the invariant. -/
theorem inv_queue {s : State} (h : Inv s) (q : List Request) (r : List Reply) :
    Inv { s with requests := q, replies := r } := by
  obtain ⟨sp, c, e, i⟩ := h
  refine ⟨sp.congr rfl rfl rfl, ⟨c.1, c.2, c.3, c.4, c.5, c.6, c.7⟩, ?_, ?_⟩
  · intro hk hp
    obtain ⟨d, r, b, n, p⟩ := e hk hp
    exact ⟨fun h => by obtain ⟨a1,a2,a3,a4,a5,a6,a7,a8,a9⟩ := d h; exact ⟨a1,a2,a3,a4,a5,a6,a7,a8,a9⟩,
      fun h => by obtain ⟨a1,a2,a3,a4⟩ := r h; exact ⟨a1,a2,a3,a4⟩, b, n, p⟩
  · intro hk
    obtain ⟨a1,a2,a3,a4,a5,a6,a7,a8,a9⟩ := i hk
    exact ⟨a1,a2,a3,a4,a5,a6,a7,a8,a9⟩

/-- A failed EXPLODE engine meets the invariant. -/
theorem inv_raise (e : ErrorKind) {s : State} (hk : s.kind = some .explode) : Inv (raise e s) := by
  refine ⟨.raise e s, ⟨by simp, by simp [hk], by simp, by simp, by simp, by simp, by simp⟩, by simp, by simp [hk]⟩

/-- A new instance meets the invariant. -/
theorem inv_created (s : State) (k : Option Kind) (ct ds) 
    (hk : k = none ∨ (k = some .explode ∧ ct = none ∧ ds = none) ∨ (k = some .implode ∧ ∃ c d, ct = some c ∧ ds = some d)) :
    Inv (s.created k ct ds) := by
  refine ⟨.created s k ct ds,
    ⟨by simp [State.created, State.reset], by simp [State.created, State.reset], by simp [State.created, State.reset],
    by simp [State.created, State.reset], by simp [State.created, State.reset], by simp [State.created, State.reset],
    by simp [State.created, State.reset]⟩, ?_, ?_⟩
  · rcases hk with rfl | ⟨rfl, rfl, rfl⟩ | ⟨rfl, c, d, rfl, rfl⟩
    · simp [State.created]
    · intro _ _
      refine ⟨fun _ => ⟨rfl, rfl, rfl, rfl, rfl, rfl, by simp [State.created],
        by simp [State.created, State.reset, Config.hdrMinAvail], rfl, rfl⟩, by simp [State.created, State.reset], rfl, rfl,
        by simp [State.created, State.reset]⟩
    · simp [State.created]
  · rcases hk with rfl | ⟨rfl, rfl, rfl⟩ | ⟨rfl, c, d, rfl, rfl⟩
    · simp [State.created]
    · simp [State.created]
    · intro _
      refine ⟨by simp [State.created, State.reset],
        ⟨c, d, rfl, by simp [State.created, State.reset], by simp [State.created, State.reset]⟩, rfl, rfl, Nat.le_refl _,
        Nat.le_refl _, rfl, by simp [State.created, State.reset], by simp [State.created, State.reset]⟩

/-- While streaming, `finish` has not been called. -/
theorem not_ended {s : State} (hI : Inv s) (ha : s.activity = .idle) (hp : s.phase = .streaming) : s.flags.streamEnded =
    false := by
  have := hI.control.idle_ended ha (by rw [hp]; simp)
  rw [hp] at this; simpa using this

/-- The tables of an EXPLODE engine, as R174, R156 and R157 make them. -/
theorem explodeTables_eq (ct : CType) : explodeTables ct = {
        ct := none
        ascii := if ct = .ascii then some generateAsciiTables else none
        lenLut := some ((fillSlots lenBits lenCode).map (BitVec.ofNat 4))
        distLut := some ((fillSlots distBits distCode).map (BitVec.ofNat 6)) } := by
  rw [generateAsciiTables_eq, fillSlots_len, fillSlots_dist]
  cases ct <;> rfl

end Sys2Proof.Machine
end

