-- ==== Sys2Proof/Laws/Limits.lean ====
section
/-! SUPPORT. The parameters of R10: no step changes them, and what the limits do to a step. -/

namespace Sys2Proof.Machine

/-! ## What the limits do -/

/-- A step is the engine's step, kept within the limits (R10). -/
theorem step_eq_limited (s : State) : step s = limited s (engineStep s) := rfl

/-- Everything the limits can do to a result: nothing, or refuse a next state. -/
theorem limited_cases (s : State) (r : Result) : limited s r = r ∨ (limited s r = .refused .limitExceeded ∧ ∃ t, r = .next t) := by
  cases r with
  | next t =>
    simp only [limited]
    split
    · exact .inl rfl
    · exact .inr ⟨rfl, t, rfl⟩
  | fault f => exact .inl rfl
  | refused f => exact .inl rfl

/-- With the defaults of R10 nothing is refused. -/
theorem limited_unbounded {s : State} (h : s.limits = .unbounded) (r : Result) : limited s r = r := by
  cases r with
  | next t =>
    have h1 : t.fits s.limits = true := by
      rw [h, State.fits]
      simp [Limits.unbounded, fitsWidth, fitsCapacity]
    have h2 : ((t.replies.drop s.replies.length).all fun reply => fitsCapacity s.limits.outCap reply.producedOutput.length) = true := by
      rw [h]
      simp [Limits.unbounded, fitsCapacity]
    exact if_pos ⟨h1, h2⟩
  | fault f => rfl
  | refused f => rfl

theorem step_unbounded {s : State} (h : s.limits = .unbounded) : step s = engineStep s := limited_unbounded h _

/-- A step that goes on is the engine's, and the state it leads to fits. -/
theorem step_next {s t : State} (h : step s = .next t) : engineStep s = .next t ∧ t.fits s.limits = true := by
  rw [step_eq_limited] at h
  cases he : engineStep s with
  | next u =>
    rw [he, limited] at h
    split at h
    · next hf => cases h; exact ⟨rfl, hf.1⟩
    · cases h
  | fault f => rw [he] at h; cases h
  | refused f => rw [he] at h; cases h

/-! ## No step changes a parameter -/

/-- The parameters of two states are the same. -/
def SameParameters (s t : State) : Prop := t.len2Short = s.len2Short ∧ t.limits = s.limits

theorem SameParameters.trans {s t u : State} (h : SameParameters s t) (k : SameParameters t u) : SameParameters s u :=
  ⟨k.1.trans h.1, k.2.trans h.2⟩

theorem putBit_parameters (s : State) (b : Bool) : SameParameters s (s.putBit b) := by
  unfold State.putBit
  split <;> exact ⟨rfl, rfl⟩

theorem putBits_parameters (n : Nat) (v : BitVec 16) (s : State) : SameParameters s (putBits n v s) := by
  induction n generalizing v s with
  | zero => exact ⟨rfl, rfl⟩
  | succ n ih => exact (putBit_parameters s _).trans (ih _ _)

theorem flush_parameters (s : State) : SameParameters s s.flush := by
  unfold State.flush
  split <;> exact ⟨rfl, rfl⟩

theorem copyBytes_parameters {count off : Nat} {s t : State} (h : copyBytes count off s = some t) : SameParameters s t := by
  induction count generalizing s with
  | zero => cases h; exact ⟨rfl, rfl⟩
  | succ n ih =>
    unfold copyBytes at h
    split at h
    · cases h
    · exact (ih h :)

theorem consumeBytes_parameters {count k : Nat} {s t : State} (h : consumeBytes count k s = some t) : SameParameters s t := by
  induction count generalizing k s with
  | zero => cases h; exact ⟨rfl, rfl⟩
  | succ n ih =>
    unfold consumeBytes at h
    split at h
    · cases h
    · exact (ih h :)

theorem putSymbol_parameters {symbol : Nat} {s t : State} (h : putSymbol symbol s = some t) : SameParameters s t := by
  unfold putSymbol at h
  split at h
  · cases h
  · split at h
    · cases h
    · cases h; exact putBits_parameters _ _ _

theorem putDistance_parameters (w : DistWidth) (off : Nat) (s : State) : SameParameters s (putDistance w off s) :=
  (putBits_parameters _ _ _).trans (putBits_parameters _ _ _)

theorem copyMatch_parameters {count off : Nat} {s t : State} (h : copyMatch count off s = .next t) : SameParameters s t := by
  obtain ⟨-, rfl⟩ | ⟨-, h⟩ := copyMatch_next h
  · exact ⟨rfl, rfl⟩
  · exact copyBytes_parameters h

theorem exec_parameters {i : Instr} {s t : State} (h : exec i s = .next t) : SameParameters s t := by
  rw [exec_eq_execItem] at h
  cases hi : i.item with
  | hdr0 ct => rw [hi] at h; obtain ⟨-, rfl⟩ := acceptHdr0_next h; exact ⟨rfl, rfl⟩
  | hdr1 ds => rw [hi] at h; obtain ⟨ct, -, rfl⟩ := acceptHdr1_next h; exact ⟨rfl, rfl⟩
  | litB b => rw [hi] at h; obtain ⟨-, rfl⟩ := literal_next h; exact ⟨rfl, rfl⟩
  | litA b => rw [hi] at h; obtain ⟨-, rfl⟩ := literal_next h; exact ⟨rfl, rfl⟩
  | eos => rw [hi] at h; obtain ⟨-, rfl⟩ := endOfStream_next h; exact ⟨rfl, rfl⟩
  | len bucket extra =>
    rw [hi] at h
    simp only [execItem] at h
    split at h
    · obtain ⟨-, rfl⟩ := endOfStream_next h; exact ⟨rfl, rfl⟩
    · obtain ⟨-, rfl⟩ := lengthPart_next h; exact ⟨rfl, rfl⟩
  | dist index low =>
    rw [hi] at h
    obtain ⟨m, ds, -, -, h⟩ := distancePart_next h
    exact (copyMatch_parameters h :)

theorem accept_parameters {r : Request} {s t : State} (h : accept r s = .next t) : SameParameters s t := by
  cases r with
  | createExplode => cases h; exact ⟨rfl, rfl⟩
  | createImplode ct ds =>
    cases h
    unfold acceptCreateImplode
    split <;> exact ⟨rfl, rfl⟩
  | feed chunk => obtain ⟨-, ⟨-, rfl⟩ | ⟨-, -, rfl⟩ | ⟨-, -, -, rfl⟩⟩ := acceptFeed_next h <;> exact ⟨rfl, rfl⟩
  | finish => obtain ⟨-, ⟨-, rfl⟩ | ⟨-, -, rfl⟩ | ⟨-, -, rfl⟩⟩ := acceptFinish_next h <;> exact ⟨rfl, rfl⟩
  | discard => cases h; exact ⟨rfl, rfl⟩

theorem explodeFeed_parameters {s t : State} (h : explodeFeed s = .next t) : SameParameters s t := by
  unfold explodeFeed at h
  split at h
  · unfold afterFetch at h
    split at h <;> first | exact exec_parameters h | (cases h; exact ⟨rfl, rfl⟩) | cases h
  · unfold explodeEndFeed at h
    split at h
    · cases h; exact ⟨rfl, rfl⟩
    · split at h <;> cases h
      exact ⟨rfl, rfl⟩

theorem explodeFinish_parameters {s t : State} (h : explodeFinish s = .next t) : SameParameters s t := by
  unfold explodeFinish at h
  split at h
  · cases h; exact ⟨rfl, rfl⟩
  · cases h; exact ⟨rfl, rfl⟩
  · split at h <;> (cases h; exact ⟨rfl, rfl⟩)
  · cases h
  · cases h

theorem startImplode_parameters {s t : State} (h : startImplode s = .next t) : SameParameters s t := by
  unfold startImplode at h
  split at h
  · cases h; exact ⟨rfl, rfl⟩
  · cases h

theorem emitLiteral_parameters {s t : State} (h : emitLiteral s = .next t) : SameParameters s t := by
  unfold emitLiteral at h
  split at h
  · cases h
  · split at h
    · cases h
    · next hp => cases h; exact (putSymbol_parameters hp).trans ⟨rfl, rfl⟩

theorem emitMatch_parameters {ds : DSize} {len off : Nat} {s t : State} (h : emitMatch ds len off s = .next t) :
    SameParameters s t := by
  unfold emitMatch at h
  split at h
  · cases h
  · next hp =>
    split at h
    · cases h
    · next hc =>
      cases h
      exact ((putSymbol_parameters hp).trans (putDistance_parameters _ _ _)).trans
        ((consumeBytes_parameters hc).trans ⟨rfl, rfl⟩)

theorem decidePosition_parameters {s t : State} (h : decidePosition s = .next t) : SameParameters s t := by
  unfold decidePosition at h
  split at h
  · cases h
  · dsimp only at h
    split at h
    · exact emitMatch_parameters h
    · exact emitLiteral_parameters h

theorem endImplode_parameters {s t : State} (h : endImplode s = .next t) : SameParameters s t := by
  unfold endImplode at h
  split at h
  · cases h
  · next u hu =>
    cases h
    obtain ⟨v, hv, rfl⟩ := Option.map_eq_some_iff.1 hu
    exact ((putSymbol_parameters hv).trans (t := v) ⟨rfl, rfl⟩).trans (t := v.setEosSeen)
      ((flush_parameters v.setEosSeen).trans ⟨rfl, rfl⟩)

theorem implodeFeed_parameters {s t : State} (h : implodeFeed s = .next t) : SameParameters s t := by
  unfold implodeFeed at h
  split at h
  · exact startImplode_parameters h
  · split at h
    · exact decidePosition_parameters h
    · cases h; exact ⟨rfl, rfl⟩
  all_goals cases h

theorem implodeFinish_parameters {s t : State} (h : implodeFinish s = .next t) : SameParameters s t := by
  unfold implodeFinish at h
  split at h
  · exact startImplode_parameters h
  · cases h; exact ⟨rfl, rfl⟩
  · split at h
    · exact decidePosition_parameters h
    · exact endImplode_parameters h
  all_goals cases h

/-- The parameters of R10 are fixed for the machine. -/
theorem engineStep_parameters {s t : State} (h : engineStep s = .next t) : SameParameters s t := by
  unfold engineStep at h
  split at h
  · obtain ⟨-, rfl⟩ | ⟨r, rest, -, h⟩ := idleStep_next h
    · exact ⟨rfl, rfl⟩
    · exact (accept_parameters h :)
  · unfold feedStep at h
    split at h
    · cases h
    · exact explodeFeed_parameters h
    · exact implodeFeed_parameters h
  · unfold finishStep at h
    split at h
    · cases h
    · exact explodeFinish_parameters h
    · exact implodeFinish_parameters h

/-- With the defaults of R10 one step of the machine is one of the engine, and the defaults stay. -/
theorem step_of_unbounded {s t : State} (h : s.limits = .unbounded) (hs : engineStep s = .next t) :
    step s = .next t ∧ t.limits = .unbounded :=
  ⟨(step_unbounded h).trans hs, (engineStep_parameters hs).2.trans h⟩

end Sys2Proof.Machine
end

