-- ==== Sys2Proof/Laws/Streams.lean ====
section
/-! SUPPORT. Lemmas about whole streams (R237, R277): packing, the rounds of the functional forms, and the match finder and the
CodeTable on a whole input. -/

namespace Sys2Proof.Machine

/-! ## Bits and bytes -/

/-- Packing adds fewer than 8 zero bits (R65). -/
theorem bytesBits_packBits (bs : Bits) : ∃ pad, pad < 8 ∧ bytesBits (packBits bs) = bs ++ List.replicate pad false := by
  have hbyte : ∀ cs : Bits, cs.length ≤ 8 → natBits 8 (byteOf cs).toNat = cs ++ List.replicate (8 - cs.length) false := by
    intro cs hc
    have hlt := bitsValue_lt cs
    have h256 : bitsValue cs < 2 ^ 8 := hlt.trans_le (Nat.pow_le_pow_right (by omega) hc)
    have h0 : (byteOf cs).toNat = bitsValue cs := by rw [byteOf, BitVec.toNat_ofNat, Nat.mod_eq_of_lt h256]
    have hz : ∀ n, natBits n 0 = List.replicate n false := by
      intro n; induction n with
      | zero => rfl
      | succ n ih => rw [natBits, ih, List.replicate_succ]; rfl
    have := natBits_add cs.length (8 - cs.length) (bitsValue cs)
    rw [show cs.length + (8 - cs.length) = 8 by omega, natBits_bitsValue, Nat.div_eq_of_lt hlt, hz] at this
    rw [h0, this]
  induction bs using packBits.induct with
  | case1 b0 b1 b2 b3 b4 b5 b6 b7 rest ih =>
    obtain ⟨pad, h1, h2⟩ := ih
    refine ⟨pad, h1, ?_⟩
    have := hbyte [b0,b1,b2,b3,b4,b5,b6,b7] (by simp)
    rw [packBits, bytesBits, List.flatMap_cons, this]
    rw [bytesBits] at h2
    rw [h2]; simp
  | case2 => exact ⟨0, by omega, rfl⟩
  | case3 short h1 h2 =>
    have hlen : 1 ≤ short.length ∧ short.length < 8 := by
      rcases short with
        _ | ⟨a0, _ | ⟨a1, _ | ⟨a2, _ | ⟨a3, _ | ⟨a4, _ | ⟨a5, _ | ⟨a6, _ | ⟨a7, r⟩⟩⟩⟩⟩⟩⟩⟩ <;>
        first | exact absurd rfl (h1 _ _ _ _ _ _ _ _ _) | exact absurd rfl h2 | (constructor <;> simp)
    refine ⟨8 - short.length, by omega, ?_⟩
    rw [packBits]
    · simp only [bytesBits, List.flatMap_cons, List.flatMap_nil, List.append_nil]
      exact hbyte short (by omega)
    · exact h1
    · exact h2

/-- Bit `m` of a byte sequence (R12). -/
theorem bytesBits_get (S : List Byte) (m : Nat) : (bytesBits S)[m]? = (S[m / 8]?).map fun b : Byte => b.getLsbD (m % 8) := by
  induction S generalizing m with
  | nil => simp [bytesBits]
  | cons b S ih =>
    rw [bytesBits, List.flatMap_cons]
    by_cases h : m < 8
    · rw [List.getElem?_append_left (by rw [natBits_length]; exact h), Nat.div_eq_of_lt h, Nat.mod_eq_of_lt h,
        List.getElem?_eq_getElem (by rw [natBits_length]; exact h), natBits_getElem]
      rfl
    · rw [List.getElem?_append_right (by rw [natBits_length]; omega), natBits_length]
      have := ih (m - 8)
      rw [bytesBits] at this
      rw [this, show m / 8 = (m - 8) / 8 + 1 by omega, show m % 8 = (m - 8) % 8 by omega]
      rfl

/-- A byte sequence is known by its bits. -/
theorem bytesBits_injective : ∀ (xs ys : List Byte), bytesBits xs = bytesBits ys → xs = ys := by
  intro xs
  induction xs with
  | nil =>
    intro ys h
    have := congrArg List.length h
    rw [bytesBits_length, bytesBits_length] at this
    exact (List.length_eq_zero_iff.1 (by simpa using this.symm)).symm
  | cons x xs ih =>
    intro ys h
    have hl := congrArg List.length h
    rw [bytesBits_length, bytesBits_length] at hl
    cases ys with
    | nil => simp at hl
    | cons y ys =>
      rw [bytesBits, List.flatMap_cons, bytesBits, List.flatMap_cons] at h
      obtain ⟨h1, h2⟩ := List.append_inj h (by rw [natBits_length, natBits_length])
      have : x.toNat = y.toNat := by
        have := congrArg bitsValue h1
        rw [bitsValue_natBits, bitsValue_natBits, Nat.mod_eq_of_lt x.isLt, Nat.mod_eq_of_lt y.isLt] at this
        exact this
      rw [BitVec.eq_of_toNat_eq this, ih ys h2]

/-- The bytes of a space from address 0 on. -/
theorem mem_bytes_get {m : Memory} {n : Nat} (h : m.covers 0 n) (k : Nat) : m.read k = m.bytes[k]? := by
  have gen : ∀ (m : Memory) (b n k : Nat), m.covers b n → m.read (b + k) = m.bytes[k]? := by
    intro m
    induction m with
    | nil => intro b n k _; rfl
    | cons c m ih =>
      intro b n k h
      cases n with
      | zero => cases h
      | succ n =>
        simp only [Memory.covers, List.map_cons, List.range'_succ, List.cons.injEq] at h
        rw [Memory.read_cons]
        cases k with
        | zero => rw [if_pos (by rw [h.1]; rfl)]; rfl
        | succ k =>
          rw [if_neg (by rw [h.1]; omega), show b + (k+1) = b + 1 + k by omega, ih (b+1) n k h.2]
          rfl
  have := gen m 0 n k h
  rwa [Nat.zero_add] at this

/-- How many bytes a space holds. -/
theorem mem_bytes_len {m : Memory} {b n : Nat} (h : m.covers b n) : m.bytes.length = n := by
  rw [Memory.bytes, List.length_map]
  exact Memory.covers_length h

/-- A decoded byte ends the window and `OUT`. -/
theorem emitByte_bytes {s : State} (h : SpacesOk s) (b : Byte) : (s.emitByte b).win.mem.bytes = s.win.mem.bytes ++ [b] ∧
    (s.emitByte b).output.mem.bytes = s.output.mem.bytes ++ [b] := by
  have hl := Memory.covers_length h.window
  have hw : s.win.mem.covers 0 s.win.mem.length := by rw [hl]; exact h.window
  refine ⟨?_, outAppend_bytes (h.winAppend b) b⟩
  have := Memory.bytes_write_next hw b
  rw [Memory.covers_next hw, hl] at this
  exact this

/-- A byte sequence known by its parts. -/
theorem append_of_reads {A B : List Byte} (L : Nat) (C : List Byte) (hA : B.length = A.length + L) (hC : C.length = L)
    (h1 : ∀ a, a < A.length → B[a]? = A[a]?) (h2 : ∀ j, j < L → B[A.length + j]? = C[j]?) : B = A ++ C := by
  refine List.ext_getElem? fun k => ?_
  rcases Nat.lt_or_ge k A.length with h | h
  · rw [List.getElem?_append_left h, h1 k h]
  · rw [List.getElem?_append_right h]
    rcases Nat.lt_or_ge k (A.length + L) with h' | h'
    · have := h2 (k - A.length) (by omega)
      rw [← this]; congr 1; omega
    · rw [List.getElem?_eq_none (by omega), List.getElem?_eq_none (by omega)]

/-- The copy loop appends the bytes of R193. -/
theorem copyBytes_bytes {s t : State} {L off : Nat} (h : SpacesOk s) (h1 : 1 ≤ off) (h2 : off ≤ s.win.len)
    (hc : copyBytes L off s = some t) :
   t.win.mem.bytes = s.win.mem.bytes ++ copied s.win.mem.bytes L off ∧ t.output.mem.bytes =
     s.output.mem.bytes ++ copied s.win.mem.bytes L off ∧ SpacesOk t ∧ t = { s with win := t.win, output := t.output } := by
  obtain ⟨t', e0, e1, e2, e3, e4, e5, e6, e7, e8⟩ := copyBytes_spec L h h1 h2
  rw [hc] at e0; cases e0
  have hlen : s.win.mem.bytes.length = s.win.len := mem_bytes_len h.window
  have hout : s.output.mem.bytes.length = s.output.mem.length := by rw [Memory.bytes, List.length_map]
  have hcop : ∀ j, j < L → s.win.mem.read (s.win.len - off + j % off) = (copied s.win.mem.bytes L off)[j]? := by
    intro j hj
    have := Nat.mod_lt j h1
    rw [mem_bytes_get h.window, copied, List.getElem?_map, List.getElem?_range hj, hlen]
    simp only [Option.map_some]
    rw [List.getD_eq_getElem?_getD, List.getElem?_eq_getElem (by omega)]
    rfl
  refine ⟨append_of_reads L _ ?_ (by simp [copied]) ?_ ?_, append_of_reads L _ ?_ (by simp [copied]) ?_ ?_, e2, e1⟩
  · rw [mem_bytes_len e2.window, hlen, e3]
  · intro a ha
    rw [← mem_bytes_get e2.window, ← mem_bytes_get h.window]; exact e6 a (by omega)
  · intro j hj
    rw [hlen, ← mem_bytes_get e2.window, (e8 j hj).1]; exact hcop j hj
  · rw [mem_bytes_len e2.output, hout, e5]
  · intro a ha
    rw [← mem_bytes_get e2.output, ← mem_bytes_get h.output]; exact e7 a (by omega)
  · intro j hj
    rw [hout, ← mem_bytes_get e2.output, (e8 j hj).2]; exact hcop j hj

/-! ## The functional forms -/

/-- An item takes at least one bit. -/
theorem symbol_bits_pos {ct : CType} {p : Place} {bs rest : Bits} {i : Instr}
    (h : decode (explodeTables ct) p bs = .item i rest) (hp : tablesAt ct p) :
   rest.length < bs.length := by
  obtain ⟨h1, h2, h3⟩ := decode_stands h hp
  have : 1 ≤ itemBits i.item := by
    cases hi : i.item with
    | hdr0 => simp [itemBits]
    | hdr1 => simp [itemBits]
    | litB => simp [itemBits]
    | litA => simp only [itemBits]; omega
    | len => simp only [itemBits]; omega
    | eos => simp [itemBits]
    | dist c low => 
      simp only [itemBits]
      have : 2 ≤ widthBits (lowWidth low) := by cases low <;> simp [lowWidth, widthBits]
      omega
  omega

/-- Rounds enough are enough. -/
theorem explodeSymbols_fuel (l2 : Bool) (ct : CType) (ds : DSize) : ∀ (f g : Nat) (bits : Bits) (out : List Byte),
    bits.length < f → bits.length < g →
   explodeSymbols l2 ct ds f bits out = explodeSymbols l2 ct ds g bits out := by
  have hsym : tablesAt ct (.symbol ct) := fun c hc => by cases hc; rfl
  intro f
  induction f with
  | zero => intro g bits out h; omega
  | succ f ih =>
    intro g bits out h1 h2
    obtain ⟨g, rfl⟩ := Nat.exists_eq_succ_of_ne_zero (by omega : g ≠ 0)
    rw [explodeSymbols, explodeSymbols]
    cases hd : decode (explodeTables ct) (.symbol ct) bits with
    | item i rest =>
      have := symbol_bits_pos hd hsym
      simp only
      cases hi : i.item <;> simp only
      · exact ih _ _ _ (by omega) (by omega)
      · exact ih _ _ _ (by omega) (by omega)
      · rename_i k e
        cases hd2 : decode (explodeTables ct) (.distance (distWidth l2 (matchLength k e) ds)) rest with
        | item j after =>
          have := symbol_bits_pos hd2 (by intro c hc; cases hc)
          simp only
          cases hj : j.item <;> simp only
          split
          · rfl
          · exact ih _ _ _ (by omega) (by omega)
        | _ => rfl
    | _ => rfl

/-- The output of one more record. -/
theorem outputs_snoc (recs : List Reply) (b : List Byte) (e) : outputs (recs ++ [{ producedOutput := b, error := e }]) =
    outputs recs ++ b := by
  simp [outputs]

/-- Steps after steps. -/
theorem Reaches.trans {s t u : State} (h1 : Reaches s t) (h2 : Reaches t u) : Reaches s u := by
  induction h1 with
  | here => exact h2
  | later h _ ih => exact .later h (ih h2)

/-- One step. -/
theorem Reaches.one {s t : State} (h : step s = .next t) : Reaches s t := .later h (.here t)

/-- Rounds enough are enough. -/
theorem implodeSymbols_rounds (l2 : Bool) (ct : CType) (ds : DSize) (S : List Byte) : ∀ (n m p : Nat), S.length - p ≤ n →
    S.length - p ≤ m →
    implodeSymbols l2 ct ds S n p = implodeSymbols l2 ct ds S m p := by
  have base : ∀ (m p : Nat), S.length ≤ p → implodeSymbols l2 ct ds S m p = symbolBits ct Config.eosSym := by
    intro m p h
    cases m with
    | zero => rfl
    | succ m => rw [implodeSymbols, if_neg (by omega)]
  intro n
  induction n with
  | zero => intro m p h1 h2; rw [base m p (by omega), base 0 p (by omega)]
  | succ n ih =>
    intro m p h1 h2
    by_cases hp : p < S.length
    swap
    · rw [base m p (by omega), base _ p (by omega)]
    obtain ⟨m, rfl⟩ := Nat.exists_eq_succ_of_ne_zero (by omega : m ≠ 0)
    rw [implodeSymbols, implodeSymbols, if_pos hp, if_pos hp]
    simp only
    split
    · rename_i hm
      simp only [Config.minLen] at hm
      rw [ih m _ (by omega) (by omega)]
    · rw [ih m _ (by omega) (by omega)]

/-- A literal's CodeTable bits. -/
theorem symbolBits_literal (ct : CType) (b : Byte) : symbolBits ct b.toNat = encodeItem (literalItem ct b) := by
  have hl : b.toNat < (codeTable ct).length := by rw [codeTable_length, Config.nSym]; have := b.isLt; omega
  rw [symbolBits, List.getElem?_eq_getElem hl]
  simp only
  rw [codeTable_literal]; exact literalEntry_bits ct b

/-- A length's CodeTable bits. -/
theorem symbolBits_length (ct : CType) {i e : Nat} (hi : i < 16) (he : e < 2 ^ romAt exLenBits i) :
    symbolBits ct (0x100 + (lenBase i + e)) = encodeItem (if i = 15 ∧ e = 255 then .eos else .len i e) := by
  obtain ⟨entry, h1, h2⟩ := lengthEntry_bits hi he
  rw [symbolBits, codeTable_length_entry, h1]
  exact h2

/-- EOS's CodeTable bits. -/
theorem symbolBits_eos (ct : CType) : symbolBits ct Config.eosSym = encodeItem .eos := by
  have := symbolBits_length ct (i := 15) (e := 255) (by decide) (by decide)
  rw [if_pos ⟨rfl, rfl⟩] at this
  exact this

/-- The bits of a distance are a DIST item. -/
theorem distanceBits_eq (w : DistWidth) (off : Nat) : distanceBits w off = encodeItem
    (.dist ((off - 1) >>> widthBits w) (lowOf w ((off - 1) % 2 ^ widthBits w))) := by
  rw [encodeItem, lowWidth_lowOf, lowValue_lowOf, Nat.mod_mod, distanceBits]

/-- The bytes of a whole input. -/
theorem wholeInput_byte (S : List Byte) (k : Nat) : (wholeInput S).streamByte k = S[k]? := by
  have h : ∀ (S : List Byte) (base k : Nat), (Memory.ofBytes base S).read (base + k) = S[k]? := by
    intro S
    induction S with
    | nil => intro base k; rfl
    | cons b S ih =>
      intro base k
      rw [Memory.ofBytes, Memory.read_cons]
      cases k with
      | zero => simp
      | succ k =>
        rw [if_neg (by simp), show base + (k+1) = base + 1 + k by omega, ih]
        simp
  have := h S 0 k
  rw [Nat.zero_add] at this
  rw [State.streamByte, if_neg (by simp [wholeInput, State.reset])]
  exact this

/-- A run reads only its bytes. -/
theorem runLength_congr {s t : State} {bound : Nat} (h : ∀ k, k < bound → s.streamByte k = t.streamByte k) (n a b : Nat)
    (hab : a ≤ b) (hb : b + n ≤ bound) :
    s.runLength n a b = t.runLength n a b := by
  induction n generalizing a b with
  | zero => rfl
  | succ n ih =>
    unfold State.runLength
    rw [h a (by omega), h b (by omega), ih (a+1) (b+1) (by omega) (by omega)]

/-- The finder reads only the bytes up to the longest run (R276). -/
theorem findMatch_congr {s t : State} (reach p : Nat)
    (hm : min Config.maxLen (s.input.total - p) = min Config.maxLen (t.input.total - p))
    (h : ∀ k, k < p + min Config.maxLen (s.input.total - p) → s.streamByte k = t.streamByte k) : s.findMatch reach p =
      t.findMatch reach p := by
  have hb : ∀ maxlen count off best, maxlen ≤ min Config.maxLen (s.input.total - p) → s.bestMatch p maxlen count off best =
    t.bestMatch p maxlen count off best := by
    intro maxlen count
    induction count with
    | zero => intros; rfl
    | succ count ih =>
      intro off best hmm
      unfold State.bestMatch
      rw [runLength_congr h maxlen (p - off) p (by omega) (by omega)]
      exact ih _ _ hmm
  unfold State.findMatch
  simp only [← hm]
  rw [hb _ _ _ _ (Nat.le_refl _)]

/-- A match found in a whole input can be encoded, and copies the input bytes (R266, R275). -/
theorem wholeMatch (S : List Byte) (ds : DSize) (p : Nat) (hp : p ≤ S.length) (l2 : Bool)
    (h : Config.minLen ≤ ((wholeInput S).findMatch (windowReach ds) p).1) :
   ∃ i e, i < 16 ∧ e < 2 ^ romAt exLenBits i ∧ ¬(i = 15 ∧ e = 255) ∧ matchLength i e =
     ((wholeInput S).findMatch (windowReach ds) p).1
    ∧ 2 ≤ matchLength i e ∧ p + matchLength i e ≤ S.length
    ∧ 1 ≤ ((wholeInput S).findMatch (windowReach ds) p).2 ∧ ((wholeInput S).findMatch (windowReach ds) p).2 ≤ p
    ∧ (((wholeInput S).findMatch (windowReach ds) p).2 - 1) >>> widthBits (distWidth l2 (matchLength i e) ds) < 64
    ∧ S.take p ++ copied (S.take p) (matchLength i e) ((wholeInput S).findMatch (windowReach ds) p).2 = S.take
      (p + matchLength i e) := by
  obtain ⟨m1, m2, m3, m4, m5, m6⟩ := findMatch_spec (wholeInput S) (windowReach ds) p h
  obtain ⟨i, e, hi1, he, hne, hl⟩ := matchLength_exists h m1
  generalize ((wholeInput S).findMatch (windowReach ds) p) = r at *
  have hm2 : r.1 ≤ S.length - p := m2
  have h2 : 2 ≤ r.1 := h
  refine ⟨i, e, hi1, he, hne, hl, by omega, by omega, m3, by omega, ?_, ?_⟩
  · rw [Nat.shiftRight_eq_div_pow, hl]
    unfold distWidth
    split
    · rename_i h2
      have := m5 h2.1
      simp only [widthBits]; omega
    · have : r.2 ≤ windowReach ds := by omega
      cases ds <;> simp [windowReach, dbits, dsizeCode, dsizeWidth, widthBits] at * <;> omega
  · rw [hl]
    have hb : ∀ j, j < r.1 → S[p + j]? = S[p - r.2 + j % r.2]? := by
      intro j
      induction j using Nat.strongRecOn with
      | ind j ih =>
        intro hj
        have := m6 j hj
        rw [wholeInput_byte, wholeInput_byte] at this
        rw [← this]
        rcases Nat.lt_or_ge j r.2 with hlt | hge
        · rw [Nat.mod_eq_of_lt hlt]
        · have h3 := ih (j - r.2) (by omega) (by omega)
          rw [show p - r.2 + j = p + (j - r.2) by omega, h3, ← Nat.mod_eq_sub_mod hge]
    refine List.ext_getElem (by simp [copied]; omega) ?_
    intro k h1 h2
    have hlt : (S.take p).length = p := by simp; omega
    rw [List.getElem_take]
    rcases Nat.lt_or_ge k p with hk | hk
    · rw [List.getElem_append_left (by omega), List.getElem_take]
    · rw [List.getElem_append_right (by omega)]
      simp only [copied, List.getElem_map, List.getElem_range, hlt]
      have hkl : k < p + r.1 := by simp at h2; omega
      have hmod := Nat.mod_lt (k - p) m3
      have := hb (k - p) (by omega)
      rw [show p + (k - p) = k by omega] at this
      rw [List.getD_eq_getElem?_getD, List.getElem?_take, if_pos (by omega), ← this, List.getElem?_eq_getElem (by omega)]
      rfl

end Sys2Proof.Machine
end

