-- ==== Sys2Proof/Tests/Slice0.lean ====
section
/-! SUPPORT. The model's own tests: well-formedness, the rows of spec/opcode_table.json and words written out from the spec's
formats, vectors of spec/95_test_vectors.md as single steps, and a witness for the hypotheses of every obligation. -/

-- One theorem after another: the kernel's evaluations here outlast the elaboration of what follows.
set_option Elab.async false

namespace Sys2Proof.Tests

open Sys2Proof Sys2Proof.Machine

/-! ## Well-formedness: the one check there is (R97) -/

theorem test_wellFormed_refuses_eos_bits : Instr.WellFormed (.len15 0xFF) = false := by decide

theorem test_wellFormed_longest_length : Instr.WellFormed (.len15 0xFE) = true := by decide

theorem test_wellFormed_others : [Instr.hdr0Ascii, .hdr1Large, .litB 0xFF, .litAFF, .len14 0x7F, .eos, .dist63 (.w6 63)].all
    Instr.WellFormed = true := by decide

/-! ## Decoding -/

/-- The row's `width_fixed` bits, all later bits 0, decode at a place of the row's format to the row's instruction (its view
`item`, which loses nothing: `ItemRoundTrip`), and they are the instruction's fixed bits. -/
def rowReads (row : Nat × Nat × Instr) : Bool :=
  let (width, word, i) := row
  (decodedInstr (decode wordTables (itemPlace i.item) (natBits width word ++ List.replicate 24 false))).map Instr.item
      == some i.item
    && rowFixed i.item == (width, word)

/-! The rows of spec/opcode_table.json: `width_fixed`, `match`, instruction. -/

def rows1 : List (Nat × Nat × Instr) := List.flatten [
[
  (8, 0, .hdr0Binary), (8, 1, .hdr0Ascii), (8, 4, .hdr1Small), (8, 5, .hdr1Medium), (8, 6, .hdr1Large),
  (1, 0, .litB 0), (12, 2336, .litA00), (13, 8128, .litA01), (13, 4032, .litA02), (13, 6080, .litA03),
  (13, 1984, .litA04), (13, 7104, .litA05), (13, 3008, .litA06), (13, 5056, .litA07), (13, 960, .litA08),
  (9, 368, .litA09), (8, 196, .litA0A), (13, 7616, .litA0B), (13, 3520, .litA0C), (8, 68, .litA0D)],
[
  (13, 5568, .litA0E), (13, 1472, .litA0F), (13, 6592, .litA10), (13, 2496, .litA11), (13, 4544, .litA12),
  (13, 448, .litA13), (13, 7872, .litA14), (13, 3776, .litA15), (13, 5824, .litA16), (13, 1728, .litA17),
  (13, 6848, .litA18), (13, 2752, .litA19), (14, 9344, .litA1A), (13, 4800, .litA1B), (13, 704, .litA1C),
  (13, 7360, .litA1D), (13, 3264, .litA1E), (13, 5312, .litA1F), (5, 30, .litA20), (11, 1184, .litA21)]]
theorem test_rows1 : rows1.all rowReads = true := by decide +kernel

def rows2 : List (Nat × Nat × Instr) := List.flatten [
[
  (9, 112, .litA22), (13, 1216, .litA23), (11, 160, .litA24), (13, 6336, .litA25), (11, 1824, .litA26),
  (9, 432, .litA27), (8, 132, .litA28), (8, 4, .litA29), (9, 176, .litA2A), (10, 864, .litA2B),
  (8, 248, .litA2C), (7, 82, .litA2D), (8, 120, .litA2E), (9, 304, .litA2F), (8, 184, .litA30),
  (7, 18, .litA31), (8, 56, .litA32), (8, 216, .litA33), (8, 88, .litA34), (8, 152, .litA35)],
[
  (9, 48, .litA36), (8, 24, .litA37), (8, 232, .litA38), (9, 464, .litA39), (9, 208, .litA3A),
  (13, 2240, .litA3B), (12, 288, .litA3C), (8, 104, .litA3D), (10, 352, .litA3E), (12, 3616, .litA3F),
  (13, 4288, .litA40), (7, 98, .litA41), (8, 168, .litA42), (7, 34, .litA43), (7, 66, .litA44),
  (6, 46, .litA45), (8, 40, .litA46), (9, 336, .litA47), (9, 80, .litA48), (7, 2, .litA49)]]
theorem test_rows2 : rows2.all rowReads = true := by decide +kernel

def rows3 : List (Nat × Nat × Instr) := List.flatten [
[
  (12, 1568, .litA4A), (10, 608, .litA4B), (7, 124, .litA4C), (8, 200, .litA4D), (7, 60, .litA4E),
  (7, 92, .litA4F), (8, 72, .litA50), (12, 2592, .litA51), (7, 28, .litA52), (7, 108, .litA53),
  (7, 44, .litA54), (8, 136, .litA55), (10, 96, .litA56), (9, 400, .litA57), (10, 928, .litA58),
  (10, 416, .litA59), (12, 544, .litA5A), (9, 144, .litA5B), (12, 3104, .litA5C), (10, 672, .litA5D)],
[
  (13, 192, .litA5E), (9, 272, .litA5F), (13, 8000, .litA60), (6, 14, .litA61), (7, 76, .litA62),
  (7, 12, .litA63), (7, 116, .litA64), (6, 54, .litA65), (7, 52, .litA66), (7, 84, .litA67),
  (7, 20, .litA68), (6, 22, .litA69), (12, 1056, .litA6A), (8, 8, .litA6B), (6, 38, .litA6C),
  (7, 100, .litA6D), (6, 6, .litA6E), (6, 58, .litA6F), (7, 36, .litA70), (11, 800, .litA71)]]
theorem test_rows3 : rows3.all rowReads = true := by decide +kernel

def rows4 : List (Nat × Nat × Instr) := List.flatten [
[
  (6, 26, .litA72), (6, 42, .litA73), (6, 10, .litA74), (6, 50, .litA75), (9, 16, .litA76),
  (8, 240, .litA77), (9, 480, .litA78), (9, 224, .litA79), (11, 1312, .litA7A), (12, 2080, .litA7B),
  (12, 32, .litA7C), (13, 3904, .litA7D), (13, 5952, .litA7E), (13, 1856, .litA7F), (14, 1152, .litA80),
  (14, 14464, .litA81), (14, 6272, .litA82), (14, 10368, .litA83), (14, 2176, .litA84), (14, 12416, .litA85)],
[
  (14, 4224, .litA86), (14, 8320, .litA87), (14, 128, .litA88), (14, 16128, .litA89), (14, 7936, .litA8A),
  (14, 12032, .litA8B), (14, 3840, .litA8C), (14, 14080, .litA8D), (14, 5888, .litA8E), (14, 9984, .litA8F),
  (14, 1792, .litA90), (14, 15104, .litA91), (14, 6912, .litA92), (14, 11008, .litA93), (14, 2816, .litA94),
  (14, 13056, .litA95), (14, 4864, .litA96), (14, 8960, .litA97), (14, 768, .litA98), (14, 15616, .litA99)]]
theorem test_rows4 : rows4.all rowReads = true := by decide +kernel

def rows5 : List (Nat × Nat × Instr) := List.flatten [
[
  (14, 7424, .litA9A), (14, 11520, .litA9B), (14, 3328, .litA9C), (14, 13568, .litA9D), (14, 5376, .litA9E),
  (14, 9472, .litA9F), (14, 1280, .litAA0), (14, 14592, .litAA1), (14, 6400, .litAA2), (14, 10496, .litAA3),
  (14, 2304, .litAA4), (14, 12544, .litAA5), (14, 4352, .litAA6), (14, 8448, .litAA7), (14, 256, .litAA8),
  (14, 15872, .litAA9), (14, 7680, .litAAA), (14, 11776, .litAAB), (14, 3584, .litAAC), (14, 13824, .litAAD)],
[
  (14, 5632, .litAAE), (14, 9728, .litAAF), (13, 6976, .litAB0), (13, 2880, .litAB1), (13, 4928, .litAB2),
  (13, 832, .litAB3), (13, 7488, .litAB4), (13, 3392, .litAB5), (13, 5440, .litAB6), (13, 1344, .litAB7),
  (13, 6464, .litAB8), (13, 2368, .litAB9), (13, 4416, .litABA), (13, 320, .litABB), (13, 7744, .litABC),
  (13, 3648, .litABD), (13, 5696, .litABE), (13, 1600, .litABF), (13, 6720, .litAC0), (13, 2624, .litAC1)]]
theorem test_rows5 : rows5.all rowReads = true := by decide +kernel

def rows6 : List (Nat × Nat × Instr) := List.flatten [
[
  (13, 4672, .litAC2), (13, 576, .litAC3), (13, 7232, .litAC4), (13, 3136, .litAC5), (13, 5184, .litAC6),
  (13, 1088, .litAC7), (13, 6208, .litAC8), (13, 2112, .litAC9), (13, 4160, .litACA), (13, 64, .litACB),
  (13, 8064, .litACC), (13, 3968, .litACD), (13, 6016, .litACE), (13, 1920, .litACF), (13, 7040, .litAD0),
  (13, 2944, .litAD1), (13, 4992, .litAD2), (13, 896, .litAD3), (13, 7552, .litAD4), (13, 3456, .litAD5)],
[
  (13, 5504, .litAD6), (13, 1408, .litAD7), (13, 6528, .litAD8), (13, 2432, .litAD9), (13, 4480, .litADA),
  (13, 384, .litADB), (13, 7808, .litADC), (13, 3712, .litADD), (13, 5760, .litADE), (13, 1664, .litADF),
  (14, 1536, .litAE0), (13, 6784, .litAE1), (14, 14848, .litAE2), (14, 6656, .litAE3), (14, 10752, .litAE4),
  (13, 2688, .litAE5), (14, 2560, .litAE6), (14, 12800, .litAE7), (14, 4608, .litAE8), (13, 4736, .litAE9)]]
theorem test_rows6 : rows6.all rowReads = true := by decide +kernel

def rows7 : List (Nat × Nat × Instr) := List.flatten [
[
  (14, 8704, .litAEA), (14, 512, .litAEB), (14, 15360, .litAEC), (14, 7168, .litAED), (13, 640, .litAEE),
  (14, 11264, .litAEF), (14, 3072, .litAF0), (14, 13312, .litAF1), (13, 7296, .litAF2), (13, 3200, .litAF3),
  (13, 5248, .litAF4), (14, 5120, .litAF5), (14, 9216, .litAF6), (14, 1024, .litAF7), (14, 14336, .litAF8),
  (14, 6144, .litAF9), (14, 10240, .litAFA), (14, 2048, .litAFB), (14, 12288, .litAFC), (14, 4096, .litAFD)],
[
  (14, 8192, .litAFE), (14, 0, .litAFF), (4, 11, .len0), (3, 7, .len1), (4, 3, .len2),
  (4, 13, .len3), (5, 21, .len4), (5, 5, .len5), (5, 25, .len6), (6, 41, .len7),
  (6, 9, .len8 0), (6, 49, .len9 0), (6, 17, .len10 0), (7, 97, .len11 0), (7, 33, .len12 0),
  (7, 65, .len13 0), (8, 129, .len14 0), (8, 1, .len15 0), (16, 65281, .eos), (2, 3, .dist0 (.w4 0))]]
theorem test_rows7 : rows7.all rowReads = true := by decide +kernel

def rows8 : List (Nat × Nat × Instr) := List.flatten [
[
  (4, 13, .dist1 (.w4 0)), (4, 5, .dist2 (.w4 0)), (5, 25, .dist3 (.w4 0)), (5, 9, .dist4 (.w4 0)), (5, 17, .dist5 (.w4 0)),
  (5, 1, .dist6 (.w4 0)), (6, 62, .dist7 (.w4 0)), (6, 30, .dist8 (.w4 0)), (6, 46, .dist9 (.w4 0)), (6, 14, .dist10 (.w4 0)),
  (6, 54, .dist11 (.w4 0)), (6, 22, .dist12 (.w4 0)), (6, 38, .dist13 (.w4 0)), (6, 6, .dist14 (.w4 0)), (6, 58, .dist15 (.w4 0)),
  (6, 26, .dist16 (.w4 0)), (6, 42, .dist17 (.w4 0)), (6, 10, .dist18 (.w4 0)), (6, 50, .dist19 (.w4 0)), (6, 18, .dist20 (.w4 0))],
[
  (6, 34, .dist21 (.w4 0)), (7, 66, .dist22 (.w4 0)), (7, 2, .dist23 (.w4 0)), (7, 124, .dist24 (.w4 0)), (7, 60, .dist25 (.w4 0)),
  (7, 92, .dist26 (.w4 0)), (7, 28, .dist27 (.w4 0)), (7, 108, .dist28 (.w4 0)), (7, 44, .dist29 (.w4 0)), (7, 76, .dist30 (.w4 0)),
  (7, 12, .dist31 (.w4 0)), (7, 116, .dist32 (.w4 0)), (7, 52, .dist33 (.w4 0)), (7, 84, .dist34 (.w4 0)), (7, 20, .dist35 (.w4 0)),
  (7, 100, .dist36 (.w4 0)), (7, 36, .dist37 (.w4 0)), (7, 68, .dist38 (.w4 0)), (7, 4, .dist39 (.w4 0)), (7, 120, .dist40 (.w4 0))]]
theorem test_rows8 : rows8.all rowReads = true := by decide +kernel

def rows9 : List (Nat × Nat × Instr) := List.flatten [
[
  (7, 56, .dist41 (.w4 0)), (7, 88, .dist42 (.w4 0)), (7, 24, .dist43 (.w4 0)), (7, 104, .dist44 (.w4 0)), (7, 40, .dist45 (.w4 0)),
  (7, 72, .dist46 (.w4 0)), (7, 8, .dist47 (.w4 0)), (8, 240, .dist48 (.w4 0)), (8, 112, .dist49 (.w4 0)), (8, 176, .dist50 (.w4 0)),
  (8, 48, .dist51 (.w4 0)), (8, 208, .dist52 (.w4 0)), (8, 80, .dist53 (.w4 0)), (8, 144, .dist54 (.w4 0)), (8, 16, .dist55 (.w4 0)),
  (8, 224, .dist56 (.w4 0)), (8, 96, .dist57 (.w4 0)), (8, 160, .dist58 (.w4 0)), (8, 32, .dist59 (.w4 0)), (8, 192, .dist60 (.w4 0))],
[
  (8, 64, .dist61 (.w4 0)), (8, 128, .dist62 (.w4 0)), (8, 0, .dist63 (.w4 0))]]
theorem test_rows9 : rows9.all rowReads = true := by decide +kernel
/-- What a step leads to. -/
def after (r : Result) : Option State :=
  match r with
  | .next t => some t
  | .fault _ => none
  | .refused _ => none

/-- Why a step is refused. -/
def refusal (r : Result) : Option Refusal :=
  match r with
  | .next _ => none
  | .fault _ => none
  | .refused why => some why

/-! Words written out bit by bit in stream order: the examples of R94 to R99 and of 95_test_vectors.md. -/

theorem test_word_hdr0 : decode noTables .hdr0 [true, false, false, false, false, false, false, false]
    = .item .hdr0Ascii [] := by decide

theorem test_word_hdr1 : decode noTables .hdr1 [false, true, true, false, false, false, false, false]
    = .item .hdr1Large [] := by decide

theorem test_word_hdr_illegal : decode noTables .hdr0 (natBits 8 2) = .badCompressionType 2
    ∧ decode noTables .hdr1 (natBits 8 3) = .badDictionarySize 3 ∧ decode noTables .hdr1 (natBits 8 7) = .badDictionarySize 7 := by
  decide

/-- V20: `0 10000010` is LIT 0x41. -/
theorem test_word_litB : decode (explodeTables .binary) (.symbol .binary)
    [false, true, false, false, false, false, false, true, false] = .item (.litB 0x41) [] := by decide +kernel

/-- A12 to A21: one byte of each length and each class. -/
theorem test_word_litA : ([(4, 0x0F, 0x20), (5, 0x1B, 0x65), (6, 0x31, 0x41), (7, 0x62, 0x0A), (11, 0x490, 0x00),
    (12, 0x3A0, 0x7F), (13, 0x1240, 0x1A), (13, 0x0240, 0x80), (13, 0x0000, 0xFF), (13, 0x1F00, 0xA9)]
    : List (Nat × Nat × Byte)).all (fun r => decode (explodeTables .ascii) (.symbol .ascii) (false :: natBits r.1 r.2.1)
      == .item (Instr.litA r.2.2) []) = true := by decide +kernel

/-- A22: the first 8 code bits of byte 0x00 are no literal. -/
theorem test_word_litA_short : decode (explodeTables .ascii) (.symbol .ascii) (false :: natBits 8 0x90) = .needMore := by
  decide +kernel

/-- V20: `1 00100 1 11 1000` is length 11 and offset 2. -/
theorem test_word_match : decode (explodeTables .binary) (.symbol .binary)
      [true, false, false, true, false, false, true, true, true, true, false, false, false]
      = .item (.len8 1) [true, true, true, false, false, false]
    ∧ matchLength 8 1 = 11
    ∧ decode (explodeTables .binary) (.distance .four) [true, true, true, false, false, false]
      = .item (.dist0 (.w4 1)) []
    ∧ matchOffset 0 (.w4 1) = 2 := by decide +kernel

/-- T10 to T31: length, extra bits and code. -/
theorem test_word_len : ([(2, 4, 0x0B), (3, 3, 0x07), (4, 4, 0x03), (9, 6, 0x29), (10, 7, 0x09), (11, 7, 0x49), (12, 8, 0x31),
    (15, 8, 0xF1), (16, 9, 0x11), (23, 9, 0x1D1), (24, 11, 0x61), (39, 11, 0x7E1), (40, 12, 0x21), (71, 12, 0xFA1),
    (72, 13, 0x41), (135, 13, 0x1FC1), (136, 15, 0x81), (263, 15, 0x7F81), (264, 16, 0x0001), (265, 16, 0x0101),
    (517, 16, 0xFD01), (518, 16, 0xFE01)] : List (Nat × Nat × Nat)).all (fun r =>
      match decode (explodeTables .binary) (.symbol .binary) (natBits r.2.1 r.2.2) with
      | .item i [] =>
        match i.item with
        | .len bucket extra => matchLength bucket extra == r.1
        | _ => false
      | _ => false) = true := by decide +kernel

/-- T32, V20: `1 0000000 11111111` is EOS; one bit less is not. -/
theorem test_word_eos : decode (explodeTables .ascii) (.symbol .ascii) (true :: (List.replicate 7 false ++ List.replicate 8 true))
      = .item .eos []
    ∧ decode (explodeTables .ascii) (.symbol .ascii) (true :: (List.replicate 7 false ++ List.replicate 7 true)) = .needMore := by
  decide +kernel

/-- T40 to T55: width of the low bits, offset, size and value of the distance field. -/
theorem test_word_dist : ([(.four, 1, 6, 0x03), (.four, 2, 6, 0x07), (.four, 16, 6, 0x3F), (.four, 17, 8, 0x0D),
    (.four, 1024, 12, 0xF00), (.five, 1, 7, 0x03), (.five, 33, 9, 0x0D), (.five, 2048, 13, 0x1F00), (.six, 1, 8, 0x03),
    (.six, 64, 8, 0xFF), (.six, 65, 10, 0x0D), (.six, 4096, 14, 0x3F00), (.two, 1, 4, 0x3), (.two, 4, 4, 0xF),
    (.two, 5, 6, 0x0D), (.two, 256, 10, 0x300)] : List (DistWidth × Nat × Nat × Nat)).all (fun r =>
      match decode (explodeTables .binary) (.distance r.1) (natBits r.2.2.1 r.2.2.2) with
      | .item i [] =>
        match i.item with
        | .dist index low => matchOffset index low == r.2.1
        | _ => false
      | _ => false) = true := by decide +kernel

/-- A row that no other row's word equals is read from the word alone, and the first step after reset with the word in place
runs it (LIT.A.00 and LEN.2). -/
theorem test_table_words : decodeTableWord 16 0x920 = some .litA00 ∧ decodeTableWord 8 3 = some .len2
    ∧ after (step (State.reset.withFetchWord 16 0x920)) = after (exec .litA00 (State.reset.withFetchWord 16 0x920))
    ∧ (after (step (State.reset.withFetchWord 8 3))).map (fun t => t.pending) = some (some { length := 4, pos := 20 }) := by
  decide +kernel

/-! ## Tables -/

/-- T1 to T9. -/
theorem test_codeTable_literals : ([(0x00, 9, 0x000, 12, 0x920), (0x0A, 9, 0x014, 8, 0x0C4), (0x1A, 9, 0x034, 14, 0x2480),
    (0x20, 9, 0x040, 5, 0x01E), (0x41, 9, 0x082, 7, 0x062), (0x65, 9, 0x0CA, 6, 0x036), (0x7F, 9, 0x0FE, 13, 0x740),
    (0x80, 9, 0x100, 14, 0x480), (0xFF, 9, 0x1FE, 14, 0x000)] : List (Nat × BitVec 5 × BitVec 16 × BitVec 5 × BitVec 16)).all
    (fun r => (codeTable .binary)[r.1]? == some { bits := r.2.1, code := r.2.2.1 }
      && (codeTable .ascii)[r.1]? == some { bits := r.2.2.2.1, code := r.2.2.2.2 }) = true := by decide +kernel

/-- A3 to A11. -/
theorem test_populate : populateAsciiTable 6 0x41 0 0x100 = [0x31, 0x71, 0xB1, 0xF1]
    ∧ populateAsciiTable 8 0x22 0 0x100 = [0x38] ∧ populateAsciiTable 11 0x00 4 0x100 = [0x49, 0xC9]
    ∧ populateAsciiTable 12 0x7F 4 0x100 = [0x3A] ∧ populateAsciiTable 13 0x1A 6 0x80 = [0x49]
    ∧ populateAsciiTable 13 0x80 6 0x80 = [0x09]
    ∧ populateAsciiTable 13 0xFF 8 0x100 = [0x00, 0x20, 0x40, 0x60, 0x80, 0xA0, 0xC0, 0xE0]
    ∧ populateAsciiTable 12 0x13 0 0x100 = [] := by decide +kernel

/-- S1 to S3 (`[3, 7]`, `[5, 13]`, `false`). -/
theorem test_patIterator : patIterator 20 2 3 = some (3, 7) ∧ patIterator 20 3 5 = some (5, 13)
    ∧ patIterator 10 7 10 = none := by decide

/-- R148 item 3, by hand: lengths 2, 1, 3, 3 get, in order of (length, index), `0`, `10`, `110`, `111`; complemented and reversed
`1`, `10`, `100`, `000`. And bucket 1 of the length alphabet (R144). -/
theorem test_canonicalCodes : canonicalCodes [2, 1, 3, 3] = [2, 1, 4, 0]
    ∧ romAt (canonicalCodes lenBits) 1 = 3 ∧ romAt (canonicalCodes lenBits) 15 = 0 := by decide

/-! ## The bit cursor -/

/-- An IMPLODE cursor that starts empty. -/
def cursor0 : State := State.reset

/-- B1 to B7: the body of V20. -/
theorem test_putBits_V20 :
    let s := putBits 9 0x092 (putBits 9 0x082 cursor0)
    let t := putBits 4 0x1 (putBits 2 0x3 (putBits 7 0x49 s))
    let u := putBits 16 0xFF01 t
    s.output.mem.bytes = [0x82, 0x24] ∧ s.bc = { partialByte := 0x01, bitsFilled := 2 }
      ∧ t.bc = { partialByte := 0x0F, bitsFilled := 7 } ∧ u.bc = { partialByte := 0x7F, bitsFilled := 7 }
      ∧ u.flush.output.mem.bytes = [0x82, 0x24, 0x25, 0x8F, 0x80, 0x7F] ∧ u.flush.bc = { partialByte := 0, bitsFilled := 0 } := by
  decide +kernel

/-- B8 to B13. -/
theorem test_putBits_edges :
    (putBits 5 0b11111 (putBits 3 0b101 cursor0)).output.mem.bytes = [0xFD]
    ∧ (putBits 1 1 cursor0).flush.output.mem.bytes = [0x01] ∧ (putBits 16 0xFF01 cursor0).output.mem.bytes = [0x01, 0xFF]
    ∧ (putBits 16 0xFF01 (putBits 4 0xF cursor0)).flush.output.mem.bytes = [0x1F, 0xF0, 0x0F]
    ∧ putBits 0 0 cursor0 = cursor0 ∧ cursor0.flush = cursor0 := by decide +kernel

/-- B15, B23 and B24, on the bits of `82 24 25 8F 80 7F`. -/
theorem test_takeBits :
    let bs := bytesBits [0x82, 0x24, 0x25, 0x8F, 0x80, 0x7F]
    (takeBits 8 (bs.drop 1)).map Prod.fst = some 0x41 ∧ (takeBits 16 (bs.drop 31)).map Prod.fst = some 0xFF01
      ∧ takeBits 2 (bs.drop 47) = none := by decide

/-- B25 to B29. -/
theorem test_peekBits :
    peekBits 8 ((bytesBits [0xA5]).drop 5) = 0x05 ∧ takeBits 4 ((bytesBits [0xA5]).drop 5) = none
      ∧ takeBits 3 ((bytesBits [0xA5]).drop 5) = some (0x5, []) ∧ takeBits 1 [] = none ∧ takeBits 0 [] = some (0, []) := by decide

/-! ## States -/

/-- An EXPLODE engine inside a `feed`, with these bytes received and no header read. -/
def waiting (bytes : List Byte) : State :=
  { State.reset with
    activity := .feed
    flags := { needsMore := false, streamEnded := false, eosSeen := false }
    input := { mem := Memory.ofBytes 0 bytes, base := 0, total := bytes.length } }

/-- The same with header byte 0 read. -/
def typed (ct : CType) (bytes : List Byte) : State := { waiting bytes with hdr := { ctype := some ct, dsize := none } }

/-- An EXPLODE engine inside a `finish`, with these bytes received and no header read. -/
def ended (bytes : List Byte) : State :=
  { waiting bytes with activity := .finish, flags := { needsMore := false, streamEnded := true, eosSeen := false } }

/-- An EXPLODE engine whose next symbol starts at the first of `body`, with these bytes produced before. -/
def symbolAt (ct : CType) (ds : DSize) (body produced : List Byte) : State :=
  { State.reset with
    phase := .streaming
    activity := .feed
    flags := { needsMore := false, streamEnded := false, eosSeen := false }
    hdr := { ctype := some ct, dsize := some ds }
    tables := explodeTables ct
    ipos := 16
    input := {
      mem := Memory.ofBytes 0 ([ctypeCode ct, dsizeCode ds] ++ body)
      base := 0
      total := ([ctypeCode ct, dsizeCode ds] ++ body).length }
    output := { mem := Memory.ofBytes 0 produced, count := produced.length }
    win := { mem := Memory.ofBytes 0 produced, len := produced.length } }

/-- The same with the LEN part of a match read: `length`, and `size` bits of it. -/
def distanceAt (ds : DSize) (length size : Nat) (body produced : List Byte) : State :=
  { symbolAt .binary ds body produced with pending := some { length := length, pos := 16 + size } }

/-- The same engine between transactions, with what it produced delivered. -/
def betweenFeeds (eos : Bool) (body produced : List Byte) (requests : List Request) : State :=
  { symbolAt .binary .small body produced with
    activity := .idle
    flags := { needsMore := !eos, streamEnded := false, eosSeen := eos }
    output := { mem := [], count := produced.length }
    requests := requests }

/-- The same engine inside a `finish`, flushing. -/
def flushingAt (eos : Bool) (body : List Byte) : State :=
  { symbolAt .binary .small body [] with
    activity := .finish
    phase := .flushing
    flags := { needsMore := false, streamEnded := true, eosSeen := eos } }

/-- An engine of these limits, at a literal 0x41 of 9 bits. -/
def bounded (limits : Limits) : State := { symbolAt .binary .small [0x82, 0x02] [] with limits := limits }

/-- Just enough for that literal: 4 bytes in, 1 byte out, 1 byte of window, and counters up to 31. -/
def tight : Limits := { inCap := some 4, outCap := some 1, winCap := some 1, posWidth := some 5 }

/-- No byte of output. -/
def noOutput : Limits := { tight with outCap := some 0 }

/-- A failed EXPLODE engine. -/
def failedState (requests : List Request) : State :=
  { State.reset with
    phase := .failed
    err := some .malformedSymbol
    flags := { needsMore := false, streamEnded := false, eosSeen := false }
    requests := requests }

/-- An IMPLODE engine before its header is written. -/
def implodeStart (ct : CType) (ds : DSize) (bytes : List Byte) : State :=
  { waiting bytes with kind := some .implode, hdr := { ctype := some ct, dsize := some ds } }

/-- An IMPLODE engine inside a `feed`, with no position decided. -/
def implodeFeeding (ct : CType) (ds : DSize) (bytes : List Byte) : State :=
  { implodeStart ct ds bytes with phase := .streaming, tables := implodeTables ct }

/-- An IMPLODE engine inside a `finish`, with no position decided. -/
def implodeFlushing (ct : CType) (ds : DSize) (bytes : List Byte) : State :=
  { implodeFeeding ct ds bytes with
    phase := .flushing
    activity := .finish
    flags := { needsMore := false, streamEnded := true, eosSeen := false } }

/-! They meet the invariant. -/

theorem spaces_of {s : State} (body produced : List Byte)
    (hi : s.input = { mem := Memory.ofBytes 0 body, base := 0, total := body.length })
    (hw : s.win = { mem := Memory.ofBytes 0 produced, len := produced.length })
    (ho : s.output.mem = Memory.ofBytes 0 produced ∨ s.output.mem = []) : SpacesOk s where
  window := by rw [hw]; exact Memory.covers_ofBytes 0 produced
  base_le := by rw [hi]; exact Nat.zero_le _
  input := by rw [hi]; exact Memory.covers_ofBytes 0 body
  output := by
    obtain h | h := ho
    · rw [h, Memory.covers_length (Memory.covers_ofBytes 0 produced)]; exact Memory.covers_ofBytes 0 produced
    · rw [h]; rfl

theorem inv_waiting (bytes : List Byte) : Inv (waiting bytes) where
  spaces := spaces_of bytes [] rfl rfl (.inl rfl)
  control := by constructor <;> simp [waiting, State.reset]
  explode := fun _ _ => {
    due := fun _ => by constructor <;> simp [waiting, State.reset]
    read := fun h => absurd rfl h
    cursor := rfl
    count := rfl
    pending := fun m h => by cases h }
  implode := by simp [waiting, State.reset]

theorem inv_typed (ct : CType) {bytes : List Byte} (h : 4 ≤ bytes.length) : Inv (typed ct bytes) where
  spaces := spaces_of bytes [] rfl rfl (.inl rfl)
  control := by constructor <;> simp [typed, waiting, State.reset]
  explode := fun _ _ => {
    due := fun _ => by constructor <;> simp [typed, waiting, State.reset, Config.hdrMinAvail, h]
    read := fun h => absurd rfl h
    cursor := rfl
    count := rfl
    pending := fun m h => by cases h }
  implode := by simp [typed, waiting, State.reset]

theorem inv_ended {bytes : List Byte} (h : bytes.length < 4) : Inv (ended bytes) where
  spaces := spaces_of bytes [] rfl rfl (.inl rfl)
  control := by constructor <;> simp [ended, waiting, State.reset]
  explode := fun _ _ => {
    due := fun _ => by constructor <;> simp [ended, waiting, State.reset, Config.hdrMinAvail, h]
    read := fun h => absurd rfl h
    cursor := rfl
    count := rfl
    pending := fun m h => by cases h }
  implode := by simp [ended, waiting, State.reset]

theorem inv_symbolAt (ct : CType) (ds : DSize) (body produced : List Byte) : Inv (symbolAt ct ds body produced) where
  spaces := spaces_of _ produced rfl rfl (.inl rfl)
  control := by constructor <;> simp [symbolAt, State.reset]
  explode := fun _ _ => {
    due := fun h => by cases h
    read := fun _ => {
      header := ⟨ct, ds, rfl, rfl⟩
      ipos_ge := Nat.le_refl _
      ipos_le := by simp only [symbolAt, List.length_append, List.length_cons, List.length_nil]; omega
      base_le := by simp [symbolAt] }
    cursor := rfl
    count := rfl
    pending := fun m h => by cases h }
  implode := by simp [symbolAt, State.reset]

theorem inv_bounded (limits : Limits) : Inv (bounded limits) :=
  have h : Inv (symbolAt .binary .small [0x82, 0x02] []) := inv_symbolAt _ _ _ _
  { spaces := { window := h.spaces.window, base_le := h.spaces.base_le, input := h.spaces.input, output := h.spaces.output }
    control := by constructor <;> simp [bounded, symbolAt, State.reset]
    explode := fun _ _ => {
      due := fun h => by cases h
      read := fun _ => {
        header := ⟨.binary, .small, rfl, rfl⟩
        ipos_ge := Nat.le_refl _
        ipos_le := by simp [bounded, symbolAt]
        base_le := by simp [bounded, symbolAt] }
      cursor := rfl
      count := rfl
      pending := fun m h => by cases h }
    implode := by simp [bounded, symbolAt, State.reset] }

theorem inv_distanceAt (ds : DSize) {length size : Nat} {body : List Byte} (produced : List Byte) (h1 : 2 ≤ length)
    (h2 : length ≤ 518) (h3 : size ≤ 8 * body.length) : Inv (distanceAt ds length size body produced) where
  spaces := spaces_of _ produced rfl rfl (.inl rfl)
  control := by constructor <;> simp [distanceAt, symbolAt, State.reset]
  explode := fun _ _ => {
    due := fun h => by cases h
    read := fun _ => {
      header := ⟨.binary, ds, rfl, rfl⟩
      ipos_ge := Nat.le_refl _
      ipos_le := by simp only [distanceAt, symbolAt, List.length_append, List.length_cons, List.length_nil]; omega
      base_le := by simp [distanceAt, symbolAt] }
    cursor := rfl
    count := rfl
    pending := fun m h => by
      cases h
      refine ⟨rfl, rfl, rfl, h1, h2, Nat.le_add_right _ _, ?_⟩
      simp only [distanceAt, symbolAt, List.length_append, List.length_cons, List.length_nil]
      omega }
  implode := by simp [distanceAt, symbolAt, State.reset]

theorem inv_betweenFeeds (eos : Bool) (body produced : List Byte) (requests : List Request) :
    Inv (betweenFeeds eos body produced requests) where
  spaces := spaces_of _ produced rfl rfl (.inr rfl)
  control := by constructor <;> simp [betweenFeeds, symbolAt, State.reset]
  explode := fun _ _ => {
    due := fun h => by cases h
    read := fun _ => {
      header := ⟨.binary, .small, rfl, rfl⟩
      ipos_ge := Nat.le_refl _
      ipos_le := by simp only [betweenFeeds, symbolAt, List.length_append, List.length_cons, List.length_nil]; omega
      base_le := by simp [betweenFeeds, symbolAt] }
    cursor := rfl
    count := rfl
    pending := fun m h => by cases h }
  implode := by simp [betweenFeeds, symbolAt, State.reset]

theorem inv_flushingAt (eos : Bool) (body : List Byte) : Inv (flushingAt eos body) where
  spaces := spaces_of _ [] rfl rfl (.inl rfl)
  control := by constructor <;> simp [flushingAt, symbolAt, State.reset]
  explode := fun _ _ => {
    due := fun h => by cases h
    read := fun _ => {
      header := ⟨.binary, .small, rfl, rfl⟩
      ipos_ge := Nat.le_refl _
      ipos_le := by simp only [flushingAt, symbolAt, List.length_append, List.length_cons, List.length_nil]; omega
      base_le := by simp [flushingAt, symbolAt] }
    cursor := rfl
    count := rfl
    pending := fun m h => by cases h }
  implode := by simp [flushingAt, symbolAt, State.reset]

theorem inv_implodeStart (ct : CType) (ds : DSize) (bytes : List Byte) : Inv (implodeStart ct ds bytes) where
  spaces := spaces_of bytes [] rfl rfl (.inl rfl)
  control := by constructor <;> simp [implodeStart, waiting, State.reset]
  explode := fun h => by cases h
  implode := fun _ => by constructor <;> simp [implodeStart, waiting, State.reset]

theorem inv_implodeFeeding (ct : CType) (ds : DSize) (bytes : List Byte) : Inv (implodeFeeding ct ds bytes) where
  spaces := spaces_of bytes [] rfl rfl (.inl rfl)
  control := by constructor <;> simp [implodeFeeding, implodeStart, waiting, State.reset]
  explode := fun h => by cases h
  implode := fun _ => by constructor <;> simp [implodeFeeding, implodeStart, waiting, State.reset]

theorem inv_implodeFlushing (ct : CType) (ds : DSize) (bytes : List Byte) : Inv (implodeFlushing ct ds bytes) where
  spaces := spaces_of bytes [] rfl rfl (.inl rfl)
  control := by constructor <;> simp [implodeFlushing, implodeFeeding, implodeStart, waiting, State.reset]
  explode := fun h => by cases h
  implode := fun _ => by constructor <;> simp [implodeFlushing, implodeFeeding, implodeStart, waiting, State.reset]

theorem inv_reset_requests (requests : List Request) : Inv { State.reset with requests := requests } where
  spaces := spaces_of [] [] rfl rfl (.inl rfl)
  control := by constructor <;> simp [State.reset]
  explode := fun _ _ => {
    due := fun _ => by constructor <;> simp [State.reset, noTables, Config.hdrMinAvail]
    read := fun h => absurd rfl h
    cursor := rfl
    count := rfl
    pending := fun m h => by cases h }
  implode := by simp [State.reset]

theorem due_waiting {bytes : List Byte} (h : 4 ≤ bytes.length) : HeaderByteDue none (waiting bytes) :=
  ⟨rfl, rfl, rfl, rfl, h, rfl⟩

theorem due_typed (ct : CType) {bytes : List Byte} (h : 4 ≤ bytes.length) : HeaderByteDue (some ct) (typed ct bytes) :=
  ⟨rfl, rfl, rfl, rfl, h, rfl⟩

theorem due_symbolAt (ct : CType) (ds : DSize) (body produced : List Byte) : SymbolDue ct (symbolAt ct ds body produced) :=
  ⟨rfl, rfl, rfl, rfl, rfl, rfl⟩

theorem due_distanceAt (ds : DSize) (length size : Nat) (body produced : List Byte) :
    DistanceDue { length := length, pos := 16 + size } ds (distanceAt ds length size body produced) :=
  ⟨rfl, rfl, rfl, rfl, rfl, rfl⟩

/-! ## Steps -/

/-- H12: header bytes 00 04. -/
theorem test_step_header : ((after (step (waiting [0x00, 0x04, 0x01, 0xFF]))).bind fun t => after (step t)).map
    (fun t => (t.phase, t.hdr.ctype, t.hdr.dsize, t.ipos)) = some (.streaming, some .binary, some .small, 16) := by
  decide +kernel

/-- H13: the ASCII tables are built for header byte 01. -/
theorem test_step_header_ascii : (after (step (typed .ascii [0x01, 0x04, 0x01, 0xFF]))).map (fun t => t.tables.ascii.isSome)
    = some true := by decide +kernel

/-- H6, H7, H8, H9 and H11: the error, and when it is raised. -/
theorem test_step_header_errors :
    (after (step (waiting [0x02, 0x04, 0x01, 0x00]))).map (fun t => (t.phase, t.err)) = some (.failed, some .invalidCompressionType)
    ∧ (after (step (waiting [0x07, 0x09, 0x00, 0x00]))).bind State.err = some .invalidCompressionType
    ∧ (after (step (waiting [0xFF, 0x04, 0xFF, 0xFF]))).bind State.err = some .invalidCompressionType
    ∧ (after (step (typed .binary [0x00, 0x03, 0x01, 0x00]))).bind State.err = some .invalidDictionarySize
    ∧ (after (step (typed .ascii [0x01, 0xFF, 0x00, 0x00]))).bind State.err = some .invalidDictionarySize := by decide +kernel

/-- H1 to H5: too short, reported by `finish`. -/
theorem test_step_short : ([[], [0x00], [0x00, 0x04], [0x00, 0x04, 0x01], [0x02, 0x04, 0x01]] : List (List Byte)).all
    (fun bytes => (after (step (ended bytes))).bind State.err == some .invalidData) = true := by decide +kernel

/-- P1: LIT 0x41. -/
theorem test_step_litB : (after (step (symbolAt .binary .small [0x82, 0x24, 0x25, 0x8F, 0x80, 0x7F] []))).map
    (fun t => (t.win.mem.bytes, t.output.mem.bytes, t.ipos)) = some ([0x41], [0x41], 25) := by decide +kernel

/-- X3: 'h' of an Ascii stream. -/
theorem test_step_litA : (after (step (symbolAt .ascii .small [0x14, 0xDB, 0x34, 0xF5, 0x80, 0x7F] []))).map
    (fun t => (t.win.mem.bytes, t.output.mem.bytes, t.ipos)) = some ([0x68], [0x68], 23) := by decide +kernel

/-- LEN.8 with extra 1 and DIST.0 with low bits 1: length 11 (T15), offset 2 (T41), as in V20; IPOS moves with the DIST part. -/
theorem test_exec_match : (after (exec (.len8 1) (symbolAt .binary .small [] [0x41, 0x49]))).map
      (fun t => (t.pending, t.ipos)) = some (some { length := 11, pos := 23 }, 16)
    ∧ (after (exec (.dist0 (.w4 1)) (distanceAt .small 11 7 [] [0x41, 0x49]))).map (fun t => (t.win.mem.bytes, t.ipos))
      = some ([0x41, 0x49, 0x41, 0x49, 0x41, 0x49, 0x41, 0x49, 0x41, 0x49, 0x41, 0x49, 0x41], 29) := by decide +kernel

/-- LEN.15: extra 254 is the longest match (T31), extra 255 is EOS (T32). -/
theorem test_exec_len15 : (after (exec (.len15 0xFE) (symbolAt .binary .small [] []))).map (fun t => t.pending)
      = some (some { length := 518, pos := 32 })
    ∧ (after (exec (.len15 0xFF) (symbolAt .binary .small [] []))).map (fun t => (t.pending, t.flags.eosSeen, t.ipos))
      = some (none, true, 32) := by decide +kernel

/-- X1: EOS. -/
theorem test_step_eos : (after (step (symbolAt .binary .small [0x01, 0xFF] []))).map
    (fun t => (t.flags.eosSeen, t.flags.needsMore, t.ipos, t.phase)) = some (true, false, 32, .streaming) := by decide +kernel

/-- W1 and W4 to W6. -/
theorem test_copyMatch :
    let window := fun bytes : List Byte => symbolAt .binary .small [] bytes
    (after (copyMatch 5 3 (window [0x61, 0x62, 0x63]))).map (fun t => t.win.mem.bytes)
        = some [0x61, 0x62, 0x63, 0x61, 0x62, 0x63, 0x61, 0x62]
      ∧ (after (copyMatch 2 4 (window [0x61, 0x62, 0x63, 0x64]))).map (fun t => t.win.mem.bytes)
        = some [0x61, 0x62, 0x63, 0x64, 0x61, 0x62]
      ∧ (after (copyMatch 3 2 (window [0x61, 0x62, 0x63, 0x64, 0x65]))).map (fun t => t.win.mem.bytes)
        = some [0x61, 0x62, 0x63, 0x64, 0x65, 0x64, 0x65, 0x64] := by decide +kernel

/-- W7 and W8: too far back. -/
theorem test_copyMatch_too_far :
    (after (copyMatch 2 3 (symbolAt .binary .small [] [0x61, 0x62]))).bind State.err = some .malformedSymbol
    ∧ (after (copyMatch 2 1 (symbolAt .binary .small [] []))).bind State.err = some .malformedSymbol := by decide +kernel

/-- A state with this whole input and the first `p` bytes consumed. -/
def finderAt (bytes : List Byte) (p : Nat) : State :=
  { wholeInput bytes with win := { mem := Memory.ofBytes 0 (bytes.take p), len := p } }

/-- F1 to F4 and F8. -/
theorem test_findMatch :
    (finderAt [0x61, 0x62, 0x63, 0x61, 0x62, 0x63] 3).findMatch 1024 3 = (3, 3)
    ∧ (finderAt (List.replicate 8 0x61) 1).findMatch 1024 1 = (7, 1)
    ∧ (finderAt (List.replicate 8 0x61) 0).findMatch 1024 0 = (0, 0)
    ∧ (finderAt (List.replicate 8 0x61) 7).findMatch 1024 7 = (0, 0)
    ∧ (finderAt [0x61, 0x62, 0x63, 0x31, 0x61, 0x62, 0x63, 0x32, 0x61, 0x62, 0x63] 8).findMatch 1024 8 = (3, 4)
    ∧ (finderAt [0x61, 0x62, 0x63, 0x64, 0x31, 0x61, 0x62, 0x63, 0x32, 0x61, 0x62, 0x63, 0x64] 9).findMatch 1024 9 = (4, 9)
    ∧ (finderAt [0x61, 0x62, 0x61, 0x62] 2).findMatch 1024 2 = (2, 2)
    ∧ (finderAt [0x61, 0x62, 0x61] 2).findMatch 1024 2 = (0, 0)
    ∧ (finderAt [0x61, 0x62, 0x78, 0x61, 0x62] 3).findMatch 1024 3 = (2, 3) := by decide +kernel

/-- P3, transaction 1: the header is written in the first `feed`. -/
theorem test_step_implode_start : (after (step (implodeStart .binary .small [0x41, 0x49, 0x41]))).map
    (fun t => (t.output.mem.bytes, t.phase, t.ipos)) = some ([0x00, 0x04], .streaming, 0) := by decide +kernel

/-- I1: LIT 0x41 as 9 bits. -/
theorem test_step_implode_literal : (after (step (implodeFlushing .binary .small [0x41]))).map
    (fun t => (t.output.mem.bytes, t.bc, t.ipos)) = some ([0x82], { partialByte := 0, bitsFilled := 1 }, 1) := by decide +kernel

/-- Q7: EOS and padding at the end of an empty input. -/
theorem test_step_implode_end : (after (step (implodeFlushing .binary .small []))).map
    (fun t => (t.replies, t.phase)) = some ([{ producedOutput := [0x01, 0xFF], error := none }], .done) := by decide +kernel

/-- X10a: `finish` without EOS. H12: with EOS. -/
theorem test_step_finish :
    (after (step (flushingAt false []))).map (fun t => (t.phase, t.err)) = some (.failed, some .truncatedStream)
    ∧ (after (step (flushingAt true [0x01, 0xFF]))).map (fun t => (t.phase, t.err)) = some (.done, none) := by decide +kernel

/-- Q1: an empty chunk changes nothing. -/
theorem test_step_empty_feed : after (step { State.reset with requests := [.feed []] })
    = some { State.reset with replies := [{ producedOutput := [], error := none }] } := by decide +kernel

/-- R126: a literal runs where `OUT` has room for it and is refused where it has none; and one input bit too many. -/
theorem test_step_limits : (after (step (bounded tight))).map (fun t => t.output.mem.bytes) = some [0x41]
    ∧ [noOutput, { tight with posWidth := some 4 }, { tight with inCap := some 3 }, { tight with winCap := some 0 }].all
      (fun limits => refusal (step (bounded limits)) == some .limitExceeded) = true := by decide +kernel

/-- V20 as a whole (R237, R277, I14). -/
theorem test_streams_V20 :
    explodeStream true [0x00, 0x04, 0x82, 0x24, 0x25, 0x8F, 0x80, 0x7F]
        = .ok [0x41, 0x49, 0x41, 0x49, 0x41, 0x49, 0x41, 0x49, 0x41, 0x49, 0x41, 0x49, 0x41]
      ∧ implodeStream true .binary .small [0x41, 0x49, 0x41, 0x49, 0x41, 0x49, 0x41, 0x49, 0x41, 0x49, 0x41, 0x49, 0x41]
        = [0x00, 0x04, 0x82, 0x24, 0x25, 0x8F, 0x80, 0x7F] := by decide +kernel

/-- Every memory of the model in canonical form. -/
theorem test_reset_memory : State.reset.input.mem.wf = true ∧ State.reset.output.mem.wf = true ∧ State.reset.win.mem.wf = true := by
  decide

/-! ## Witnesses: for every obligation with hypotheses, a concrete input that meets them all together -/

theorem witness_CreatedInstanceHoldsResetValues :
    ({ State.reset with requests := [.createExplode] } : State).activity = .idle
    ∧ ({ State.reset with requests := [.createExplode] } : State).requests = .createExplode :: []
    ∧ ({ State.reset with requests := [.createImplode 1 6] } : State).requests
        = .createImplode (ctypeCode .ascii) (dsizeCode .large) :: [] := ⟨rfl, rfl, rfl⟩

theorem witness_IllegalCreationLeavesNoInstance :
    (∀ ct ds, ({ State.reset with requests := [.createImplode ct ds] } : State).activity = .idle
      ∧ ({ State.reset with requests := [.createImplode ct ds] } : State).requests = .createImplode ct ds :: [])
    ∧ ((2 : Byte) ≠ 0 ∧ (2 : Byte) ≠ 1) ∧ (((1 : Byte) = 0 ∨ (1 : Byte) = 1) ∧ (7 : Byte) ≠ 4 ∧ (7 : Byte) ≠ 5 ∧ (7 : Byte) ≠ 6)
    ∧ (((0 : Byte) = 0 ∨ (0 : Byte) = 1) ∧ ((4 : Byte) = 4 ∨ (4 : Byte) = 5 ∨ (4 : Byte) = 6)) :=
  ⟨fun _ _ => ⟨rfl, rfl⟩, by decide⟩

theorem witness_ReadHeaderChecksInOrder :
    ([0x02, 0x04, 0x01] : List Byte).length < 4
    ∧ (4 ≤ ([0x02, 0x04, 0x01, 0x00] : List Byte).length
      ∧ ([0x02, 0x04, 0x01, 0x00] : List Byte).getD 0 0 ≠ 0 ∧ ([0x02, 0x04, 0x01, 0x00] : List Byte).getD 0 0 ≠ 1)
    ∧ (4 ≤ ([0x01, 0x03, 0x01, 0x00] : List Byte).length
      ∧ (([0x01, 0x03, 0x01, 0x00] : List Byte).getD 0 0 = 0 ∨ ([0x01, 0x03, 0x01, 0x00] : List Byte).getD 0 0 = 1)
      ∧ ([0x01, 0x03, 0x01, 0x00] : List Byte).getD 1 0 ≠ 4 ∧ ([0x01, 0x03, 0x01, 0x00] : List Byte).getD 1 0 ≠ 5
      ∧ ([0x01, 0x03, 0x01, 0x00] : List Byte).getD 1 0 ≠ 6) := by decide

theorem witness_HeaderBytesRoundTrip :
    4 ≤ ([0x01, 0x06, 0x01, 0xFF] : List Byte).length
    ∧ (([0x01, 0x06, 0x01, 0xFF] : List Byte).getD 0 0 = 0 ∨ ([0x01, 0x06, 0x01, 0xFF] : List Byte).getD 0 0 = 1)
    ∧ (([0x01, 0x06, 0x01, 0xFF] : List Byte).getD 1 0 = 4 ∨ ([0x01, 0x06, 0x01, 0xFF] : List Byte).getD 1 0 = 5
      ∨ ([0x01, 0x06, 0x01, 0xFF] : List Byte).getD 1 0 = 6)
    ∧ SpacesOk State.reset := ⟨by decide, by decide, by decide, (inv_reset_requests []).spaces⟩

theorem witness_HeaderByte0Result : Instr.hdr0Ascii.item = .hdr0 .ascii ∧ HeaderByteDue none (waiting [0x01, 0x04, 0x01, 0xFF]) :=
  ⟨rfl, due_waiting (by decide)⟩

theorem witness_HeaderByte1Result : (∀ ds, (Instr.hdr1 ds).item = .hdr1 ds)
    ∧ HeaderByteDue (some .ascii) (typed .ascii [0x01, 0x04, 0x01, 0xFF])
    ∧ HeaderByteDue (some .binary) (typed .binary [0x00, 0x06, 0x01, 0xFF]) :=
  ⟨fun ds => by cases ds <;> rfl, due_typed _ (by decide), due_typed _ (by decide)⟩

/-- Every clause: an illegal type, an illegal class, and a legal header. -/
theorem witness_FeedReadsTheHeader :
    (∀ b0 b1 : Byte, Inv (waiting [b0, b1, 0, 0]) ∧ (waiting [b0, b1, 0, 0]).limits = .unbounded ∧ HeaderByteDue none (waiting [b0, b1, 0, 0])
      ∧ (waiting [b0, b1, 0, 0]).input.mem.read 0 = some b0 ∧ (waiting [b0, b1, 0, 0]).input.mem.read 1 = some b1)
    ∧ ((2 : Byte) ≠ 0 ∧ (2 : Byte) ≠ 1) ∧ ((1 : Byte) = 0 ∨ (1 : Byte) = 1) ∧ ((3 : Byte) ≠ 4 ∧ (3 : Byte) ≠ 5 ∧ (3 : Byte) ≠ 6)
    ∧ (0x01 = ctypeCode .ascii ∧ 0x06 = dsizeCode .large) :=
  ⟨fun _ _ => ⟨inv_waiting _, rfl, due_waiting (Nat.le_refl 4), rfl, rfl⟩, by decide⟩

theorem witness_ShortInputIsNotParsed :
    (Inv (waiting [0x02, 0x04, 0x01]) ∧ (waiting [0x02, 0x04, 0x01]).limits = .unbounded ∧ (waiting [0x02, 0x04, 0x01]).kind = some .explode
      ∧ (waiting [0x02, 0x04, 0x01]).activity = .feed ∧ (waiting [0x02, 0x04, 0x01]).phase = .awaitingHeader
      ∧ (waiting [0x02, 0x04, 0x01]).input.total < 4)
    ∧ Inv (ended [0x02, 0x04, 0x01]) ∧ (ended [0x02, 0x04, 0x01]).limits = .unbounded ∧ (ended [0x02, 0x04, 0x01]).kind = some .explode
      ∧ (ended [0x02, 0x04, 0x01]).activity = .finish ∧ (ended [0x02, 0x04, 0x01]).phase = .awaitingHeader :=
  ⟨⟨inv_waiting _, rfl, rfl, rfl, rfl, by decide⟩, inv_ended (by decide), rfl, rfl, rfl, rfl⟩

theorem witness_BinaryLiteralResult : SymbolDue .binary (symbolAt .binary .small [0x82, 0x02] [0x41]) := due_symbolAt _ _ _ _

theorem witness_AsciiLiteralResult : Instr.litAFF.item = .litA 0xFF ∧ Instr.litA00.item = .litA 0x00
    ∧ SymbolDue .ascii (symbolAt .ascii .large [0x00] []) := ⟨rfl, rfl, due_symbolAt _ _ _ _⟩

theorem witness_LengthPartResult : Instr.len0.item = .len 0 0 ∧ (Instr.len15 254).item = .len 15 254
    ∧ ¬(15 = 15 ∧ 254 = 255) ∧ SymbolDue .ascii (symbolAt .ascii .small [] []) := ⟨rfl, rfl, by decide, due_symbolAt _ _ _ _⟩

theorem witness_EndOfStreamResult : (Instr.eos = .eos ∨ Instr.eos = .len15 0xFF) ∧ (Instr.len15 0xFF = .eos ∨ Instr.len15 0xFF = .len15 0xFF)
    ∧ SymbolDue .binary (symbolAt .binary .small [0x01, 0xFF] []) := ⟨.inl rfl, .inr rfl, due_symbolAt _ _ _ _⟩

/-- At the farthest legal offset, the number of bytes produced; and length 2 with its 2 low bits. -/
theorem witness_DistancePartCopies :
    (∀ i, (Instr.dist63 (.w4 i)).item = .dist 63 (.w4 i))
    ∧ ((Instr.dist0 (.w4 1)).item = .dist 0 (.w4 1) ∧ DistanceDue { length := 11, pos := 23 } .small (distanceAt .small 11 7 [] [0x41, 0x49])
      ∧ lowWidth (.w4 1) = distWidth (distanceAt .small 11 7 [] [0x41, 0x49]).len2Short 11 .small
      ∧ SpacesOk (distanceAt .small 11 7 [] [0x41, 0x49])
      ∧ ((0 <<< widthBits (lowWidth (.w4 1))) ||| lowValue (.w4 1)) + 1 = (distanceAt .small 11 7 [] [0x41, 0x49]).win.len)
    ∧ ((Instr.dist0 (.w2 0)).item = .dist 0 (.w2 0) ∧ DistanceDue { length := 2, pos := 20 } .large (distanceAt .large 2 4 [] [0x41])
      ∧ lowWidth (.w2 0) = distWidth (distanceAt .large 2 4 [] [0x41]).len2Short 2 .large
      ∧ SpacesOk (distanceAt .large 2 4 [] [0x41])
      ∧ ((0 <<< widthBits (lowWidth (.w2 0))) ||| lowValue (.w2 0)) + 1 ≤ (distanceAt .large 2 4 [] [0x41]).win.len) :=
  ⟨fun _ => rfl, ⟨rfl, due_distanceAt .small 11 7 _ _, by decide, spaces_of _ _ rfl rfl (.inl rfl), by decide⟩,
    rfl, due_distanceAt .large 2 4 _ _, by decide, spaces_of _ _ rfl rfl (.inl rfl), by decide⟩

/-- One byte too far. -/
theorem witness_DistanceBeyondProducedFails :
    (Instr.dist0 (.w4 1)).item = .dist 0 (.w4 1) ∧ DistanceDue { length := 3, pos := 19 } .small (distanceAt .small 3 3 [] [0x41])
    ∧ lowWidth (.w4 1) = distWidth (distanceAt .small 3 3 [] [0x41]).len2Short 3 .small
    ∧ (distanceAt .small 3 3 [] [0x41]).win.len + 1 = matchOffset 0 (.w4 1) :=
  ⟨rfl, due_distanceAt .small 3 3 _ _, by decide, by decide⟩

/-- No place at all, a literal of the other kind of stream, and a distance of the wrong width. -/
theorem witness_OutOfPlaceItemRefused :
    (∀ p, State.reset.place = some p → ¬canStand Instr.eos.item p)
    ∧ (∀ p, (symbolAt .ascii .small [] []).place = some p → ¬canStand (Instr.litB 0x41).item p)
    ∧ (∀ p, (distanceAt .large 3 3 [] []).place = some p → ¬canStand (Instr.dist0 (.w4 0)).item p) := by
  refine ⟨fun p h => ?_, fun p h => ?_, fun p h => ?_⟩ <;> revert h <;> simp [State.place, State.reset, symbolAt, distanceAt, distWidth,
    dsizeWidth] <;> rintro rfl <;> simp [canStand, Instr.item, lowWidth]

/-- The farthest offset that is legal, and one more. -/
theorem witness_MatchIsLengthThenDistance :
    Instr.len1.item = .len 1 0 ∧ ¬(1 = 15 ∧ 0 = 255) ∧ (Instr.dist0 (.w4 1)).item = .dist 0 (.w4 1)
    ∧ (∀ produced, SymbolDue .binary (symbolAt .binary .small [] produced)
      ∧ (symbolAt .binary .small [] produced).hdr.dsize = some .small
      ∧ lowWidth (.w4 1) = distWidth (symbolAt .binary .small [] produced).len2Short (matchLength 1 0) .small
      ∧ SpacesOk (symbolAt .binary .small [] produced))
    ∧ (symbolAt .binary .small [] [0x41]).win.len < matchOffset 0 (.w4 1)
    ∧ matchOffset 0 (.w4 1) = (symbolAt .binary .small [] [0x41, 0x49]).win.len :=
  ⟨rfl, by decide, rfl, fun _ => ⟨due_symbolAt _ _ _ _, rfl, rfl, spaces_of _ _ rfl rfl (.inl rfl)⟩, by decide, by decide⟩

/-- W4 and W5 (`OFF = WIN_LEN`), and offset 1. -/
theorem witness_CopyMatchClosedForm :
    SpacesOk (symbolAt .binary .small [] [0x61, 0x62, 0x63, 0x64]) ∧ 1 ≤ 4
    ∧ 4 ≤ (symbolAt .binary .small [] [0x61, 0x62, 0x63, 0x64]).win.len ∧ 2 ≤ 4 ∧ 4 ≤ 4
    ∧ 1 ≤ (symbolAt .binary .small [] [0x61, 0x62, 0x63, 0x64]).win.len :=
  ⟨spaces_of _ _ rfl rfl (.inl rfl), by decide⟩

theorem after_exists {r : Result} (h : (after r).map (fun t => decide (t.phase ≠ .failed)) = some true) :
    ∃ t, r = .next t ∧ t.phase ≠ .failed := by
  cases r with
  | next t => exact ⟨t, rfl, by simpa [after] using h⟩
  | fault f => simp [after] at h
  | refused f => simp [after] at h

/-- With the default limits; with room in `OUT` for the literal and in the counters for bit 25; with no room. -/
theorem witness_StepRunsDecodedItem :
    (∀ limits, (bounded limits).place = some (.symbol .binary))
    ∧ [.unbounded, tight, noOutput].all (fun limits => decode (bounded limits).tables (.symbol .binary)
        ((bounded limits).bitsFrom Config.fetchSpan ((bounded limits).itemStart (.symbol .binary)))
      == .item (.litB 0x41) [true, false, false, false, false, false, false]) = true
    ∧ (bounded .unbounded).limits = .unbounded
    ∧ (after (exec (.litB 0x41) (bounded tight))).map (fun t => t.fits tight) = some true
    ∧ (after (exec (.litB 0x41) (bounded noOutput))).map (fun t => t.fits noOutput) = some false
    ∧ ∃ t, step (bounded tight) = .next t ∧ t.phase ≠ .failed :=
  ⟨fun _ => rfl, by decide +kernel, rfl, by decide +kernel, by decide +kernel, after_exists (by decide +kernel)⟩

theorem witness_FetchSpanSuffices : tablesAt .ascii (.symbol .ascii) ∧ tablesAt .ascii (.distance .six) ∧ tablesAt .ascii .hdr0 :=
  ⟨fun c h => by cases h; rfl, fun c h => by (cases h), fun c h => by (cases h)⟩

theorem witness_DecodeInvertsEncode :
    (Instr.WellFormed .litAFF = true ∧ canStand Instr.litAFF.item (.symbol .ascii) ∧ tablesAt .ascii (.symbol .ascii))
    ∧ (Instr.WellFormed (.len15 254) = true ∧ canStand (Instr.len15 254).item (.symbol .binary) ∧ tablesAt .binary (.symbol .binary))
    ∧ (Instr.WellFormed (.dist63 (.w6 63)) = true ∧ canStand (Instr.dist63 (.w6 63)).item (.distance .six)
      ∧ tablesAt .binary (.distance .six)) :=
  ⟨⟨rfl, rfl, fun c h => by cases h; rfl⟩, ⟨rfl, ⟨.binary, rfl⟩, fun c h => by cases h; rfl⟩, rfl, rfl, fun c h => by (cases h)⟩

theorem witness_EncodeInvertsDecode : tablesAt .binary (.symbol .binary)
    ∧ decode (explodeTables .binary) (.symbol .binary) (natBits 9 0x082 ++ [true]) = .item (.litB 0x41) [true] :=
  ⟨fun c h => by cases h; rfl, by decide +kernel⟩

theorem witness_EveryLongBitSequenceDecodes : tablesAt .ascii (.symbol .ascii) ∧ Place.symbol .ascii ≠ .hdr0
    ∧ Place.symbol .ascii ≠ .hdr1 ∧ 16 ≤ (List.replicate 16 false).length := ⟨fun c h => by cases h; rfl, by decide⟩

/-- Nothing of the item, and all but its last bit. -/
theorem witness_IncompleteItemNeedsMore : Instr.WellFormed .eos = true ∧ canStand Instr.eos.item (.symbol .binary)
    ∧ tablesAt .binary (.symbol .binary) ∧ 0 < (encode .eos).length ∧ 15 < (encode .eos).length :=
  ⟨rfl, ⟨.binary, rfl⟩, fun c h => by cases h; rfl, by decide +kernel⟩

/-- Offsets 1 and 256 with 2 low bits, 4096 with 6; the index that has them. -/
theorem witness_DistanceOffsetsTile :
    (1 ≤ 1 ∧ 1 ≤ 64 * 2 ^ widthBits .two) ∧ (1 ≤ 256 ∧ 256 ≤ 64 * 2 ^ widthBits .two)
    ∧ (1 ≤ 4096 ∧ 4096 ≤ 64 * 2 ^ widthBits .six) ∧ (lowWidth (.w6 63) = .six ∧ matchOffset 63 (.w6 63) = 4096)
    ∧ (0 ≤ 63 ∧ 63 < 64) := by decide

theorem witness_MatchLengthsTile : (15 < 16 ∧ 255 < 2 ^ romAt exLenBits 15) ∧ (2 ≤ 2 ∧ 2 ≤ 519) ∧ (2 ≤ 519 ∧ 519 ≤ 519)
    ∧ (0 < 16 ∧ 0 < 2 ^ romAt exLenBits 0 ∧ matchLength 0 0 = 2) := by decide

theorem witness_CodeTableEntries : 255 < 256 ∧ (15 < 16 ∧ 255 < 1 <<< romAt exLenBits 15) ∧ (0 < 16 ∧ 0 < 1 <<< romAt exLenBits 0) := by
  decide

theorem witness_PatEnumerationIsTheProgression : 10 ≤ 10 ∧ 9 < 10 ∧ 3 < 2 ^ 2 ∧ 0x31 < 2 ^ 6 := by decide

/-- A4: an index that the enumeration has. -/
theorem witness_GeneratedTablesArePrinted : 0x31 ∈ populateAsciiTable 6 0x41 0 0x100 := by decide +kernel

theorem witness_AlphabetsCompleteAndPrefixFree :
    (0 < 16 ∧ 15 < 16 ∧ 1 ≠ 0 ∧ romAt lenBits 1 ≤ romAt lenBits 0) ∧ (63 < 64 ∧ 0 ≠ 63 ∧ romAt distBits 0 ≤ romAt distBits 63)
    ∧ (255 < 256 ∧ 0x20 ≠ 255 ∧ romAt chBitsAsc 0x20 ≤ romAt chBitsAsc 255) := by decide +kernel

/-- B6: 16 bits on a cursor that holds 7. -/
theorem witness_PutBitsWordForm : 16 ≤ 16
    ∧ SpacesOk { State.reset with bc := { partialByte := 0x0F, bitsFilled := 7 } }
    ∧ (0x0F : Byte) >>> (7 : BitVec 3).toNat = 0 := ⟨by decide, spaces_of [] [] rfl rfl (.inl rfl), by decide⟩

theorem witness_FlushCompletesTheByte : SpacesOk State.reset ∧ State.reset.bc.bitsFilled = 0
    ∧ SpacesOk { State.reset with bc := { partialByte := 0x7F, bitsFilled := 7 } } ∧ (7 : BitVec 3) ≠ 0 :=
  ⟨spaces_of [] [] rfl rfl (.inl rfl), rfl, spaces_of [] [] rfl rfl (.inl rfl), by decide⟩

/-- B26 and B27: bit 5 of one byte, with 3 bits left. -/
theorem witness_FieldsReadStreamBits : SpacesOk (waiting [0xA5]) ∧ 8 * (waiting [0xA5]).input.base ≤ 5
    ∧ 5 ≤ 8 * (waiting [0xA5]).input.total ∧ (3 ≤ 16 ∧ 3 ≤ 8 * (waiting [0xA5]).input.total - 5)
    ∧ (4 ≤ 16 ∧ 8 * (waiting [0xA5]).input.total - 5 < 4) := ⟨spaces_of [0xA5] [] rfl rfl (.inl rfl), by decide⟩

theorem witness_FailedInstanceRepeatsItsError : (failedState [.feed [0x00]]).kind ≠ none
    ∧ (failedState [.feed [0x00]]).activity = .idle ∧ (failedState [.feed [0x00]]).phase = .failed
    ∧ (Request.feed [0x00] = .finish ∨ ∃ chunk, Request.feed [0x00] = .feed chunk)
    ∧ (failedState [.feed [0x00]]).requests = .feed [0x00] :: [] := ⟨by decide, rfl, rfl, .inr ⟨_, rfl⟩, rfl⟩

/-- An empty chunk, and a `feed` and a `finish` after `finish`. -/
theorem witness_RefusedTransactionsChangeNothing :
    (State.reset.limits = .unbounded ∧ State.reset.kind ≠ none ∧ State.reset.activity = .idle ∧ State.reset.phase ≠ .failed)
    ∧ (∀ r : Request, (r = .finish ∨ ∃ chunk, r = .feed chunk) →
      let s : State := { betweenFeeds true [0x01, 0xFF] [] [r] with
        phase := .done, flags := { needsMore := false, streamEnded := true, eosSeen := true } }
      s.limits = .unbounded ∧ s.kind ≠ none ∧ s.activity = .idle ∧ s.phase ≠ .failed ∧ s.flags.streamEnded = true ∧ s.requests = r :: [])
    ∧ (Request.finish = .finish ∨ ∃ chunk, Request.finish = .feed chunk) :=
  ⟨by decide, fun _ _ => ⟨rfl, by simp [betweenFeeds, symbolAt, State.reset], rfl, by simp, rfl, rfl⟩, .inl rfl⟩

theorem witness_TransactionsBegin : State.reset.limits = .unbounded ∧ State.reset.kind ≠ none ∧ State.reset.activity = .idle ∧ State.reset.phase ≠ .failed
    ∧ State.reset.flags.streamEnded = false ∧ ([0x00] : List Byte) ≠ []
    ∧ ({ State.reset with requests := [.feed [0x00]] } : State).requests = .feed [0x00] :: []
    ∧ ({ State.reset with requests := [.finish] } : State).requests = .finish :: [] := by decide

theorem witness_FailedIsSticky : (failedState [.finish]).keepsInstance ∧ (failedState [.finish]).phase = .failed
    ∧ step (failedState [.finish]) = .next { failedState [] with
        replies := [{ producedOutput := [], error := some .malformedSymbol }] } :=
  ⟨fun _ r rest h => by cases h; exact .inl rfl, rfl, rfl⟩

theorem keeps_symbolAt (ct : CType) (ds : DSize) (body produced : List Byte) : (symbolAt ct ds body produced).keepsInstance := by
  intro h
  cases h

theorem witness_HeaderAndTablesFixed : Inv (symbolAt .binary .small [0x01, 0xFF] []) ∧ (symbolAt .binary .small [0x01, 0xFF] []).keepsInstance
    ∧ (∃ t, step (symbolAt .binary .small [0x01, 0xFF] []) = .next t ∧ t.phase ≠ .failed)
    ∧ (symbolAt .binary .small [0x01, 0xFF] []).phase ≠ .awaitingHeader :=
  ⟨inv_symbolAt _ _ _ _, keeps_symbolAt _ _ _ _, after_exists (by decide +kernel), by decide⟩

theorem witness_StreamOnlyGrows : Inv (symbolAt .binary .small [0x01, 0xFF] [0x41]) ∧ (symbolAt .binary .small [0x01, 0xFF] [0x41]).keepsInstance
    ∧ (∃ t, step (symbolAt .binary .small [0x01, 0xFF] [0x41]) = .next t ∧ t.phase ≠ .failed)
    ∧ 0 < (symbolAt .binary .small [0x01, 0xFF] [0x41]).win.len :=
  ⟨inv_symbolAt _ _ _ _, keeps_symbolAt _ _ _ _, after_exists (by decide +kernel), by decide⟩

/-- 7 of the 9 bits of a literal; and a match with its LEN part read and 5 of 6 bits of its DIST part there. -/
theorem witness_NeedMoreIsAtomic :
    (Inv (symbolAt .binary .small [] [0x41]) ∧ (symbolAt .binary .small [] [0x41]).limits = .unbounded
      ∧ (symbolAt .binary .small [] [0x41]).place = some (.symbol .binary)
      ∧ (symbolAt .binary .small [] [0x41]).fetch (.symbol .binary) = .needMore)
    ∧ Inv (distanceAt .small 3 3 [0x1F] [0x41]) ∧ (distanceAt .small 3 3 [0x1F] [0x41]).limits = .unbounded
      ∧ (distanceAt .small 3 3 [0x1F] [0x41]).place = some (.distance .four)
      ∧ (distanceAt .small 3 3 [0x1F] [0x41]).fetch (.distance .four) = .needMore :=
  ⟨⟨inv_symbolAt _ _ _ _, rfl, rfl, by decide +kernel⟩,
    inv_distanceAt _ _ (by decide) (by decide) (by decide), rfl, rfl, by decide +kernel⟩

theorem witness_NothingDecodedAfterEos : Inv (betweenFeeds true [0x01, 0xFF] [0x41] [.feed [0xDE, 0xAD]])
    ∧ (betweenFeeds true [0x01, 0xFF] [0x41] [.feed [0xDE, 0xAD]]).limits = .unbounded
    ∧ (betweenFeeds true [0x01, 0xFF] [0x41] [.feed [0xDE, 0xAD]]).kind = some .explode
    ∧ (betweenFeeds true [0x01, 0xFF] [0x41] [.feed [0xDE, 0xAD]]).activity = .idle
    ∧ (betweenFeeds true [0x01, 0xFF] [0x41] [.feed [0xDE, 0xAD]]).phase = .streaming
    ∧ (betweenFeeds true [0x01, 0xFF] [0x41] [.feed [0xDE, 0xAD]]).flags.eosSeen = true
    ∧ (betweenFeeds true [0x01, 0xFF] [0x41] [.feed [0xDE, 0xAD]]).requests = .feed [0xDE, 0xAD] :: []
    ∧ ([0xDE, 0xAD] : List Byte) ≠ [] := ⟨inv_betweenFeeds _ _ _ _, rfl, rfl, rfl, rfl, rfl, rfl, by decide⟩

/-- With EOS seen and without. -/
theorem witness_FinishOfExplodeEngine : ∀ eos, Inv (betweenFeeds eos [0x01, 0xFF] [0x41] [.finish])
    ∧ (betweenFeeds eos [0x01, 0xFF] [0x41] [.finish]).limits = .unbounded
    ∧ (betweenFeeds eos [0x01, 0xFF] [0x41] [.finish]).kind = some .explode
    ∧ (betweenFeeds eos [0x01, 0xFF] [0x41] [.finish]).activity = .idle
    ∧ (betweenFeeds eos [0x01, 0xFF] [0x41] [.finish]).phase = .streaming
    ∧ (betweenFeeds eos [0x01, 0xFF] [0x41] [.finish]).requests = .finish :: []
    ∧ (betweenFeeds eos [0x01, 0xFF] [0x41] [.finish]).flags.eosSeen = eos :=
  fun _ => ⟨inv_betweenFeeds _ _ _ _, rfl, rfl, rfl, rfl, rfl, rfl⟩

theorem witness_ImplodeStreamStarts : Inv (implodeStart .ascii .large [0x41]) ∧ (implodeStart .ascii .large [0x41]).limits = .unbounded
    ∧ (implodeStart .ascii .large [0x41]).kind = some .implode
    ∧ (implodeStart .ascii .large [0x41]).activity ≠ .idle ∧ (implodeStart .ascii .large [0x41]).phase = .awaitingHeader :=
  ⟨inv_implodeStart _ _ _, rfl, rfl, by decide, rfl⟩

/-- 517 bytes of lookahead, 518, and one byte inside a `finish`. -/
theorem witness_CompressorDefersItsDecisions :
    (∀ n, Inv (implodeFeeding .binary .small (List.replicate n 0x78))
      ∧ (implodeFeeding .binary .small (List.replicate n 0x78)).limits = .unbounded
      ∧ (implodeFeeding .binary .small (List.replicate n 0x78)).kind = some .implode
      ∧ (implodeFeeding .binary .small (List.replicate n 0x78)).hdr = { ctype := some .binary, dsize := some .small }
      ∧ (implodeFeeding .binary .small (List.replicate n 0x78)).activity = .feed
      ∧ (implodeFeeding .binary .small (List.replicate n 0x78)).phase = .streaming)
    ∧ (∀ n, (implodeFeeding .binary .small (List.replicate n 0x78)).input.total = n)
    ∧ (∀ n, (implodeFeeding .binary .small (List.replicate n 0x78)).ipos = 0) ∧ 517 - 0 < 518 ∧ 518 ≤ 518 - 0
    ∧ Inv (implodeFlushing .binary .small [0x41]) ∧ (implodeFlushing .binary .small [0x41]).limits = .unbounded
    ∧ (implodeFlushing .binary .small [0x41]).kind = some .implode
    ∧ (implodeFlushing .binary .small [0x41]).hdr = { ctype := some .binary, dsize := some .small }
    ∧ (implodeFlushing .binary .small [0x41]).activity = .finish
    ∧ (implodeFlushing .binary .small [0x41]).phase = .flushing
    ∧ (implodeFlushing .binary .small [0x41]).ipos < (implodeFlushing .binary .small [0x41]).input.total :=
  ⟨fun _ => ⟨inv_implodeFeeding _ _ _, rfl, rfl, rfl, rfl, rfl⟩, fun n => by simp [implodeFeeding, implodeStart, waiting],
    fun _ => rfl, by decide, by decide, inv_implodeFlushing _ _ _, rfl, rfl, rfl, rfl, rfl, by decide⟩

/-- F1, F8a (length 2) and F2b: a match found, and none; an offset in reach. -/
theorem witness_FindMatchIsLongestAndNearest :
    2 ≤ ((finderAt [0x61, 0x62, 0x63, 0x61, 0x62, 0x63] 3).findMatch 1024 3).1
    ∧ ((finderAt [0x61, 0x62, 0x61, 0x62] 2).findMatch 1024 2).1 = 2
    ∧ ((finderAt [0x61, 0x62, 0x61] 2).findMatch 1024 2).1 < 2 ∧ (1 ≤ 1 ∧ 1 ≤ min 1024 2) ∧ 1 ≤ 256 := by decide +kernel

theorem witness_EmitLiteralResult : Inv (implodeFlushing .ascii .small [0x41]) ∧ (implodeFlushing .ascii .small [0x41]).kind = some .implode
    ∧ ((implodeFlushing .ascii .small [0x41]).phase = .streaming ∨ (implodeFlushing .ascii .small [0x41]).phase = .flushing)
    ∧ (implodeFlushing .ascii .small [0x41]).hdr.ctype = some .ascii
    ∧ (implodeFlushing .ascii .small [0x41]).ipos < (implodeFlushing .ascii .small [0x41]).input.total :=
  ⟨inv_implodeFlushing _ _ _, rfl, .inr rfl, rfl, by decide⟩

/-- Length 2 at offset 256, and length 518 at offset 4096. -/
theorem witness_EmitMatchResult :
    (∀ n, Inv (implodeFlushing .binary .large (List.replicate n 0x78))
      ∧ (implodeFlushing .binary .large (List.replicate n 0x78)).kind = some .implode
      ∧ ((implodeFlushing .binary .large (List.replicate n 0x78)).phase = .streaming
        ∨ (implodeFlushing .binary .large (List.replicate n 0x78)).phase = .flushing)
      ∧ (implodeFlushing .binary .large (List.replicate n 0x78)).hdr.dsize = some .large
      ∧ (implodeFlushing .binary .large (List.replicate n 0x78)).input.total
          - (implodeFlushing .binary .large (List.replicate n 0x78)).ipos = n
      ∧ (implodeFlushing .binary .large (List.replicate n 0x78)).len2Short = true)
    ∧ (2 ≤ 2 ∧ 2 ≤ 518 ∧ 1 ≤ 256 ∧ 256 ≤ 64 * 2 ^ widthBits (distWidth true 2 .large))
    ∧ (2 ≤ 518 ∧ 518 ≤ 518 ∧ 1 ≤ 4096 ∧ 4096 ≤ 64 * 2 ^ widthBits (distWidth true 518 .large)) :=
  ⟨fun n => ⟨inv_implodeFlushing _ _ _, rfl, .inr rfl, rfl,
    by simp [implodeFlushing, implodeFeeding, implodeStart, waiting, State.reset], rfl⟩, by decide⟩

theorem witness_CompressedStreamEnds : Inv (implodeFlushing .binary .small []) ∧ (implodeFlushing .binary .small []).limits = .unbounded
    ∧ (implodeFlushing .binary .small []).kind = some .implode
    ∧ (implodeFlushing .binary .small []).activity = .finish ∧ (implodeFlushing .binary .small []).phase = .flushing
    ∧ (implodeFlushing .binary .small []).ipos = (implodeFlushing .binary .small []).input.total :=
  ⟨inv_implodeFlushing _ _ _, rfl, rfl, rfl, rfl, rfl⟩

theorem witness_StepKeepsInvariant : Inv (symbolAt .binary .small [0x01, 0xFF] [0x41])
    ∧ (∃ t, step (symbolAt .binary .small [0x01, 0xFF] [0x41]) = .next t)
    ∧ Inv State.reset ∧ step State.reset = .next State.reset := ⟨inv_symbolAt _ _ _ _, ⟨_, rfl⟩, inv_reset_requests [], rfl⟩

theorem witness_StepAlwaysAnswers : Inv { State.reset with requests := [.feed [0x00]] }
    ∧ ({ State.reset with requests := [.feed [0x00]] } : State).hostObeys
    ∧ ({ State.reset with kind := none, requests := [.createExplode] } : State).hostObeys
    ∧ (Inv (bounded noOutput) ∧ (bounded noOutput).hostObeys) :=
  ⟨inv_reset_requests _, by simp [State.hostObeys, State.reset], by simp [State.hostObeys], inv_bounded _,
    by simp [State.hostObeys, bounded, symbolAt, State.reset]⟩

/-- Each of the five ways into `Failed` is taken from some state. -/
theorem witness_ErrorsHaveTheirCauses :
    (Inv (ended [0x00]) ∧ (ended [0x00]).phase ≠ .failed ∧ (after (step (ended [0x00]))).map (fun t => (t.phase, t.err))
      = some (.failed, some .invalidData))
    ∧ (Inv (flushingAt false []) ∧ (flushingAt false []).phase ≠ .failed
      ∧ (after (step (flushingAt false []))).map (fun t => (t.phase, t.err)) = some (.failed, some .truncatedStream))
    ∧ (Inv (waiting [0x02, 0x04, 0x01, 0x00]) ∧ (waiting [0x02, 0x04, 0x01, 0x00]).phase ≠ .failed
      ∧ (after (step (waiting [0x02, 0x04, 0x01, 0x00]))).map (fun t => (t.phase, t.err))
        = some (.failed, some .invalidCompressionType))
    ∧ (Inv (typed .binary [0x00, 0x07, 0x01, 0x00]) ∧ (typed .binary [0x00, 0x07, 0x01, 0x00]).phase ≠ .failed
      ∧ (after (step (typed .binary [0x00, 0x07, 0x01, 0x00]))).map (fun t => (t.phase, t.err))
        = some (.failed, some .invalidDictionarySize))
    ∧ (Inv (distanceAt .small 3 3 [0x1F, 0x02] []) ∧ (distanceAt .small 3 3 [0x1F, 0x02] []).phase ≠ .failed
      ∧ (after (step (distanceAt .small 3 3 [0x1F, 0x02] []))).map (fun t => (t.phase, t.err))
        = some (.failed, some .malformedSymbol)) :=
  ⟨⟨inv_ended (by decide), by decide, by decide +kernel⟩, ⟨inv_flushingAt _ _, by decide, by decide +kernel⟩,
    ⟨inv_waiting _, by decide, by decide +kernel⟩, ⟨inv_typed _ (by decide), by decide, by decide +kernel⟩,
    inv_distanceAt _ _ (by decide) (by decide) (by decide), by decide, by decide +kernel⟩

/-- P3: two chunks; and no chunk at all. -/
theorem witness_ImplodeEngineIgnoresChunking : State.reset.limits = .unbounded ∧
    ({ State.reset with requests := session (.createImplode (ctypeCode .binary) (dsizeCode .small)) [[0x41, 0x49], [0x41]] } : State).activity
      = .idle
    ∧ ∀ create chunks, ({ State.reset with requests := session create chunks } : State).requests = session create chunks :=
  ⟨rfl, rfl, fun _ _ => rfl⟩

/-- P2: one byte at a time. The whole stream is a success (V20), and one byte less of it is not (X10a). -/
theorem witness_ExplodeEngineIgnoresChunking : State.reset.limits = .unbounded ∧
    ({ State.reset with requests := session .createExplode [[0x00], [0x04], [0x01], [0xFF]] } : State).activity = .idle
    ∧ ({ State.reset with requests := session .createExplode [[0x00], [0x04], [0x01], [0xFF]] } : State).requests
      = session .createExplode [[0x00], [0x04], [0x01], [0xFF]]
    ∧ explodeStream true [0x00, 0x04, 0x01, 0xFF] = .ok []
    ∧ explodeStream true [0x00, 0x04, 0x82, 0x24, 0x25, 0x8F, 0x80] = .error .truncatedStream :=
  ⟨rfl, rfl, rfl, by decide +kernel, by decide +kernel⟩


end Sys2Proof.Tests
end

/-! PROOFS. O56 `StepAlwaysAnswers`, O37 `FieldsReadStreamBits` and O18 `StepRunsDecodedItem`: progress of the machine, fields of
the stream, and a step as one item within the limits. -/

namespace Sys2Proof

open Machine

/-! ## The decoder finds its tables -/

theorem lengthItem_ne_tableNotBuilt (bucket extra : Nat) (rest : Bits) : lengthItem bucket extra rest ≠ .tableNotBuilt := by
  unfold lengthItem
  dsimp only
  split
  · simp
  · split <;> simp

theorem decodeLength_ne_tableNotBuilt (ct : CType) (bs : Bits) : decodeLength (explodeTables ct) bs ≠ .tableNotBuilt := by
  simp only [decodeLength, explodeTables]
  split
  · simp
  · split
    · simp
    · split
      · simp
      · exact lengthItem_ne_tableNotBuilt _ _ _

theorem decodeDistance_ne_tableNotBuilt (ct : CType) (w : DistWidth) (bs : Bits) :
    decodeDistance (explodeTables ct) w bs ≠ .tableNotBuilt := by
  simp only [decodeDistance, explodeTables]
  split
  · simp
  · split
    · simp
    · split <;> simp

theorem decodeSymbol_ne_tableNotBuilt (ct : CType) (bs : Bits) : decodeSymbol (explodeTables ct) ct bs ≠ .tableNotBuilt := by
  unfold decodeSymbol
  split
  · simp
  · split
    · cases ct with
      | binary => simp only [decodeLitB]; split <;> simp
      | ascii => simp only [decodeLitA, explodeTables]; split <;> simp
    · exact decodeLength_ne_tableNotBuilt _ _

/-- With the tables of its stream the decoder never meets a table without a value (U11). -/
theorem decode_ne_tableNotBuilt {ct : CType} {p : Place} (hp : tablesAt ct p) (bs : Bits) :
    decode (explodeTables ct) p bs ≠ .tableNotBuilt := by
  cases p with
  | hdr0 =>
    simp only [decode, decodeHdr0]
    split
    · simp
    · split <;> simp
  | hdr1 =>
    simp only [decode, decodeHdr1]
    split
    · simp
    · split <;> simp
  | symbol c =>
    obtain rfl := hp c rfl
    exact decodeSymbol_ne_tableNotBuilt _ _
  | distance w => exact decodeDistance_ne_tableNotBuilt ct w bs

end Sys2Proof

namespace Sys2Proof.Machine

/-! ## An item that is due has its effect -/

/-- `copyMatch` raises or copies: no source byte is absent (R191, R233). -/
theorem copyMatch_answers {count off : Nat} {s : State} (h : SpacesOk s) (h1 : 1 ≤ off) :
    ∃ t, copyMatch count off s = .next t := by
  rcases Nat.lt_or_ge s.win.len off with hlt | hge
  · exact ⟨_, if_pos hlt⟩
  · obtain ⟨t, ht, -⟩ := copyBytes_spec count h h1 hge
    exact ⟨t, by rw [copyMatch, if_neg (by omega), ht]⟩

/-- An item that can stand at the place due is executed (R90, R223). -/
theorem exec_answers {i : Instr} {p : Place} {s : State} (h : SpacesOk s) (hp : s.place = some p)
    (hc : canStand i.item p) : ∃ t, exec i s = .next t := by
  rw [exec_eq_execItem]
  cases hi : i.item with
  | hdr0 ct => rw [hi] at hc; cases hc; exact ⟨_, acceptHdr0_due (place_hdr0 hp) ct⟩
  | hdr1 ds =>
    rw [hi] at hc; cases hc
    obtain ⟨ct, hd⟩ := place_hdr1 hp
    exact ⟨_, acceptHdr1_due hd ds⟩
  | litB b => rw [hi] at hc; cases hc; exact ⟨_, literal_due (place_symbol hp) _ b⟩
  | litA b => rw [hi] at hc; cases hc; exact ⟨_, literal_due (place_symbol hp) _ b⟩
  | len bucket extra =>
    rw [hi] at hc
    obtain ⟨ct, rfl⟩ := hc
    simp only [execItem]
    split
    · exact ⟨_, endOfStream_due (place_symbol hp)⟩
    · exact ⟨_, lengthPart_due (place_symbol hp) bucket extra⟩
  | eos =>
    rw [hi] at hc
    obtain ⟨ct, rfl⟩ := hc
    exact ⟨_, endOfStream_due (place_symbol hp)⟩
  | dist index low =>
    rw [hi] at hc; cases hc
    obtain ⟨m, ds, hd, hw⟩ := place_distance hp
    rw [execItem, distancePart_due hd hw]
    exact copyMatch_answers (h.congr rfl rfl rfl) (matchOffset_pos index low)

/-! ## The EXPLODE engine goes on -/

/-- A streaming EXPLODE engine has the tables of its stream at the place that is due (R208). -/
theorem explode_tablesAt {s : State} {p : Place} (h : Inv s) (hp : s.place = some p) (hph : s.phase = .streaming) :
    ∃ ct, s.tables = explodeTables ct ∧ tablesAt ct p := by
  obtain ⟨hk, -, -⟩ := place_some hp
  obtain ⟨ct, ds, hhdr, htab⟩ := ((h.explode hk (by simp [hph])).read (by simp [hph])).header
  refine ⟨ct, htab, ?_⟩
  rintro c rfl
  have hct := (place_symbol hp).ctype
  rw [hhdr] at hct
  exact (Option.some.inj hct).symm

/-- A streaming EXPLODE engine inside a `feed` has an item due until EOS (R222). -/
theorem place_streaming {s : State} (h : Inv s) (hk : s.kind = some .explode) (ha : s.activity = .feed)
    (hph : s.phase = .streaming) (he : s.flags.eosSeen = false) : ∃ p, s.place = some p := by
  obtain ⟨ct, ds, hhdr, -⟩ := ((h.explode hk (by simp [hph])).read (by simp [hph])).header
  cases hm : s.pending with
  | none => exact ⟨_, SymbolDue.place (ct := ct) ⟨hk, ha, he, hph, hm, by rw [hhdr]⟩⟩
  | some m => exact ⟨_, DistanceDue.place (ds := ds) ⟨hk, ha, he, hph, hm, by rw [hhdr]⟩⟩

/-- What the fetch of a due item leads to: the item's effect, the end of the transaction or an error, never a fault. -/
theorem afterFetch_answers {s : State} {p : Place} (h : Inv s) (hp : s.place = some p)
    (hph : s.phase = .awaitingHeader ∨ s.phase = .streaming) : ∃ t, afterFetch (s.fetch p) s = .next t := by
  rcases hph with hph | hph
  · rcases fetch_header h hp hph with
      ⟨rfl, -, ⟨ct, rest, hf⟩ | ⟨b, hf⟩⟩ | ⟨rfl, -, ⟨ds, rest, hf⟩ | ⟨b, hf⟩⟩ <;> rw [hf]
    · exact exec_answers h.spaces hp (by rw [item_hdr0]; rfl)
    · exact ⟨_, rfl⟩
    · exact exec_answers h.spaces hp (by rw [item_hdr1]; rfl)
    · exact ⟨_, rfl⟩
  · obtain ⟨ct, htab, hat⟩ := explode_tablesAt h hp hph
    have hf : s.fetch p = decode (explodeTables ct) p (s.fetchBits p) := by rw [State.fetch, htab]
    cases hd : decode (explodeTables ct) p (s.fetchBits p) with
    | item i rest =>
      rw [hf, hd]
      exact exec_answers h.spaces hp (decode_stands hd hat).2.2
    | tableNotBuilt => exact absurd hd (decode_ne_tableNotBuilt hat _)
    | needMore => rw [hf, hd]; exact ⟨_, rfl⟩
    | badCompressionType b => rw [hf, hd]; exact ⟨_, rfl⟩
    | badDictionarySize b => rw [hf, hd]; exact ⟨_, rfl⟩
    | malformedSymbol => rw [hf, hd]; exact ⟨_, rfl⟩

theorem explodeFeed_answers {s : State} (h : Inv s) (hk : s.kind = some .explode) (ha : s.activity = .feed) :
    ∃ t, explodeFeed s = .next t := by
  have hph := (h.control.feed ha).1
  cases hp : s.place with
  | some p =>
    obtain ⟨t, ht⟩ := afterFetch_answers h hp hph
    exact ⟨t, by rw [explodeFeed, hp]; exact ht⟩
  | none =>
    have hend : explodeFeed s = explodeEndFeed s := by rw [explodeFeed, hp]
    rw [hend, explodeEndFeed]
    cases he : s.flags.eosSeen with
    | true => exact ⟨_, rfl⟩
    | false =>
      rcases hph with hph | hph
      · exact ⟨s.stopForInput, by simp [hph]⟩
      · obtain ⟨p, hp'⟩ := place_streaming h hk ha hph he
        rw [hp] at hp'
        cases hp'

theorem explodeFinish_answers {s : State} (h : Inv s) (ha : s.activity = .finish) : ∃ t, explodeFinish s = .next t := by
  rw [explodeFinish]
  rcases (h.control.finish ha).1 with hph | hph | hph <;> rw [hph]
  · exact ⟨_, rfl⟩
  · exact ⟨_, rfl⟩
  · dsimp only
    split <;> exact ⟨_, rfl⟩

/-! ## The IMPLODE engine goes on -/

/-- The distance of a match that qualifies has a code index (R158, R266). -/
theorem distanceIndex_lt (len2Short : Bool) {len off : Nat} {ds : DSize} (hr : off ≤ windowReach ds)
    (h2 : len = 2 → off ≤ 256) : (off - 1) >>> widthBits (distWidth len2Short len ds) < 64 := by
  rw [Nat.shiftRight_eq_div_pow]
  unfold distWidth
  split
  · rename_i hs
    have := h2 hs.1
    simp only [widthBits]
    omega
  · cases ds <;> simp [windowReach, dbits, dsizeCode, dsizeWidth, widthBits] at * <;> omega

/-- At a position inside the input a match or a literal is emitted (R262). -/
theorem decidePosition_answers {s : State} (h : Inv s) (hk : s.kind = some .implode) (hph : s.phase ≠ .awaitingHeader)
    (hlt : s.ipos < s.input.total) : ∃ t, decidePosition s = .next t := by
  obtain ⟨ct, ds, hhdr, hem⟩ := emitting (h.implode hk) h.spaces hph
  simp only [decidePosition, hhdr]
  split
  · rename_i hmin
    obtain ⟨hmax, hin, hpos, hreach, hshort, -⟩ := findMatch_spec s (windowReach ds) s.ipos hmin
    obtain ⟨i, e, hi, he, hne, hlen⟩ := matchLength_exists hmin hmax
    rw [← hlen] at hin hshort ⊢
    obtain ⟨t, -, ht, -⟩ := emitMatch_spec hem ds hi he hne hpos
      (distanceIndex_lt _ (hreach.trans (Nat.min_le_left _ _)) hshort) (by omega)
    exact ⟨t, ht⟩
  · obtain ⟨t, -, ht, -⟩ := emitLiteral_spec hem hlt
    exact ⟨t, ht⟩

theorem canDecide_lt {s : State} (h : s.canDecide = true) : s.ipos < s.input.total := by
  simp only [State.canDecide, Bool.and_eq_true, decide_eq_true_eq] at h
  exact h.1

theorem endImplode_answers {s : State} (h : Inv s) (hk : s.kind = some .implode) (hph : s.phase ≠ .awaitingHeader) :
    ∃ t, endImplode s = .next t := by
  obtain ⟨ct, ds, -, hem⟩ := emitting (h.implode hk) h.spaces hph
  obtain ⟨t, ht, -⟩ := emitEos_spec hem
  exact ⟨_, by rw [endImplode, ht]⟩

theorem startImplode_answers {s : State} (h : Inv s) (hk : s.kind = some .implode) : ∃ t, startImplode s = .next t := by
  obtain ⟨ct, ds, hhdr, -⟩ := (h.implode hk).header
  exact ⟨_, by rw [startImplode, hhdr]⟩

theorem implodeFeed_answers {s : State} (h : Inv s) (hk : s.kind = some .implode) (ha : s.activity = .feed) :
    ∃ t, implodeFeed s = .next t := by
  rw [implodeFeed]
  rcases (h.control.feed ha).1 with hph | hph <;> simp only [hph]
  · exact startImplode_answers h hk
  · split
    · exact decidePosition_answers h hk (by simp [hph]) (canDecide_lt ‹_›)
    · exact ⟨_, rfl⟩

theorem implodeFinish_answers {s : State} (h : Inv s) (hk : s.kind = some .implode) (ha : s.activity = .finish) :
    ∃ t, implodeFinish s = .next t := by
  rw [implodeFinish]
  rcases (h.control.finish ha).1 with hph | hph | hph <;> simp only [hph]
  · exact startImplode_answers h hk
  · exact ⟨_, rfl⟩
  · split
    · exact decidePosition_answers h hk (by simp [hph]) (canDecide_lt ‹_›)
    · exact endImplode_answers h hk (by simp [hph])

/-! ## The transactions begin -/

theorem acceptFeed_answers {s : State} (hk : s.kind ≠ none) (chunk : List Byte) : ∃ t, acceptFeed chunk s = .next t := by
  rw [acceptFeed, if_neg hk]
  split
  · exact ⟨_, rfl⟩
  · split
    · exact ⟨_, rfl⟩
    · split <;> exact ⟨_, rfl⟩

theorem acceptFinish_answers {s : State} (hk : s.kind ≠ none) : ∃ t, acceptFinish s = .next t := by
  rw [acceptFinish, if_neg hk]
  split
  · exact ⟨_, rfl⟩
  · split <;> exact ⟨_, rfl⟩

/-- With a host that creates its engine first, every request begins (R306). -/
theorem idleStep_answers {s : State} (ho : s.hostObeys) : ∃ t, idleStep s = .next t := by
  rw [idleStep]
  cases hr : s.requests with
  | nil => exact ⟨_, rfl⟩
  | cons r rest =>
    cases r with
    | createExplode => exact ⟨_, rfl⟩
    | createImplode ct ds => exact ⟨_, rfl⟩
    | feed chunk => exact acceptFeed_answers (s := { s with requests := rest }) (fun hk => (ho hk _ _ hr).2 chunk rfl) chunk
    | finish => exact acceptFinish_answers (s := { s with requests := rest }) fun hk => (ho hk _ _ hr).1 rfl
    | discard => exact ⟨_, rfl⟩

/-! ## O56 -/

/-- A good state inside a transaction has an engine of one of the two kinds. -/
theorem kind_of_busy {s : State} (h : Inv s) (ha : s.activity ≠ .idle) : s.kind = some .explode ∨ s.kind = some .implode := by
  cases hk : s.kind with
  | none => exact absurd (h.control.no_instance hk).1 ha
  | some k => cases k <;> simp

/-- Without limits the engine goes on from every good state. -/
theorem engineStep_answers {s : State} (h : Inv s) (ho : s.hostObeys) : ∃ t, engineStep s = .next t := by
  cases ha : s.activity with
  | idle => rw [engine_idle ha]; exact idleStep_answers ho
  | feed =>
    rcases kind_of_busy h (by simp [ha]) with hk | hk
    · rw [engine_feed hk ha]; exact explodeFeed_answers h hk ha
    · rw [engine_impl_feed hk ha]; exact implodeFeed_answers h hk ha
  | finish =>
    rcases kind_of_busy h (by simp [ha]) with hk | hk
    · rw [engine_finish hk ha]; exact explodeFinish_answers h ha
    · rw [engine_impl_finish hk ha]; exact implodeFinish_answers h hk ha

/-- Settles O56: the engine always answers a next state, and only a limit can turn it away. -/
theorem stepAlwaysAnswers : Obligations.StepAlwaysAnswers := by
  intro s h ho
  obtain ⟨t, ht⟩ := engineStep_answers h ho
  by_cases hl : s.limits = .unbounded
  · exact .inl ⟨t, by rw [step_unbounded hl, ht]⟩
  · rcases limited_cases s (engineStep s) with hs | ⟨hs, -⟩
    · exact .inl ⟨t, hs.trans ht⟩
    · exact .inr ⟨hl, hs⟩

/-! ## O37: fields of the stream -/

/-- The field of `n` stream bits from `pos` on: bit `pos + j` at weight `2^j`, a missing bit 0 (R12). -/
def State.fieldAt (s : State) (pos n : Nat) : Nat :=
  ((List.range n).map fun j => if (s.bitAt (pos + j)).getD false then 2 ^ j else 0).sum

@[simp] theorem State.fieldAt_zero (s : State) (pos : Nat) : s.fieldAt pos 0 = 0 := rfl

theorem State.fieldAt_succ (s : State) (pos n : Nat) :
    s.fieldAt pos (n + 1) = ((s.bitAt pos).getD false).toNat + 2 * s.fieldAt (pos + 1) n := by
  have hshift : ∀ j, (if (s.bitAt (pos + (j + 1))).getD false then 2 ^ (j + 1) else 0)
      = 2 * (if (s.bitAt (pos + 1 + j)).getD false then 2 ^ j else 0) := by
    intro j
    rw [show pos + (j + 1) = pos + 1 + j by omega]
    split
    · exact Nat.pow_succ'
    · rfl
  simp only [State.fieldAt, List.range_succ_eq_map, List.map_cons, List.sum_cons, List.map_map, Function.comp_def,
    Nat.succ_eq_add_one, hshift, List.sum_map_mul_left, Nat.add_zero, Nat.pow_zero]
  cases (s.bitAt pos).getD false <;> rfl

theorem bitAt_none {s : State} {k : Nat} (h : 8 * s.input.total ≤ k) : s.bitAt k = none := if_neg (by omega)

/-- Past the input a field is 0. -/
theorem State.fieldAt_past {s : State} {pos : Nat} (n : Nat) (h : 8 * s.input.total ≤ pos) : s.fieldAt pos n = 0 := by
  induction n generalizing pos with
  | zero => rfl
  | succ n ih => rw [State.fieldAt_succ, bitAt_none h, ih (by omega)]; rfl

/-- The value of the bits received from `pos` on is the field there. -/
theorem bitsValue_bitsFrom {s : State} (h : SpacesOk s) (n : Nat) {pos : Nat} (hb : 8 * s.input.base ≤ pos) :
    bitsValue (s.bitsFrom n pos) = s.fieldAt pos n := by
  induction n generalizing pos with
  | zero => rfl
  | succ n ih =>
    rcases Nat.lt_or_ge pos (8 * s.input.total) with hlt | hge
    · obtain ⟨b, hbit⟩ := bitAt_some h hb hlt
      simp only [State.bitsFrom, hbit, bitsValue, State.fieldAt_succ, Option.getD_some, ih (pos := pos + 1) (by omega)]
    · simp only [State.bitsFrom, bitAt_none hge, bitsValue, State.fieldAt_past _ hge]

/-- The first `n` of more bits are the `n` bits asked for. -/
theorem bitsFrom_take (s : State) {n m : Nat} (h : n ≤ m) (pos : Nat) : (s.bitsFrom m pos).take n = s.bitsFrom n pos := by
  induction n generalizing m pos with
  | zero => rfl
  | succ n ih =>
    obtain ⟨m, rfl⟩ := Nat.exists_eq_add_of_le' (show 1 ≤ m by omega)
    cases hb : s.bitAt pos with
    | none => simp [State.bitsFrom, hb]
    | some b => simp only [State.bitsFrom, hb, List.take_succ_cons, ih (m := m) (by omega)]

/-- Settles O37: the bits fetched at `pos` are the stream bits from `pos` on, as many as were received. -/
theorem fieldsReadStreamBits : Obligations.FieldsReadStreamBits := by
  intro s pos n h hb hpos hn
  have hspan : n ≤ Config.fetchSpan := hn.trans (by decide)
  have hlen := bitsFrom_length h Config.fetchSpan hb
  have hvalue : bitsValue ((s.bitsFrom Config.fetchSpan pos).take n) = s.fieldAt pos n := by
    rw [bitsFrom_take s hspan, bitsValue_bitsFrom h n hb]
  refine ⟨hvalue, ?_, ?_⟩
  · intro hle
    have hthere : n ≤ (s.bitsFrom Config.fetchSpan pos).length := by omega
    have hdrop := bitsFrom_drop s Config.fetchSpan pos n hthere
    exact ⟨takeBits_eq_some.2 ⟨hthere, hvalue.symm, hdrop.symm⟩, skipBits_eq_some.2 ⟨hthere, hdrop.symm⟩⟩
  · intro hlt
    have hshort : ¬ n ≤ (s.bitsFrom Config.fetchSpan pos).length := by omega
    exact ⟨if_neg hshort, if_neg hshort⟩

/-! ## O18: a step is one item, within the limits -/

theorem copyBytes_replies {count off : Nat} {s t : State} (h : copyBytes count off s = some t) : t.replies = s.replies := by
  induction count generalizing s with
  | zero => cases h; rfl
  | succ n ih =>
    unfold copyBytes at h
    split at h
    · cases h
    · exact (ih h :)

/-- An item returns no output: its transaction goes on, or ends with an error (R313). -/
theorem exec_replies {i : Instr} {s t : State} (h : exec i s = .next t) :
    t.replies = s.replies ∨ ∃ e, t.replies = s.replies ++ [{ producedOutput := [], error := e }] := by
  rw [exec_eq_execItem] at h
  cases hi : i.item with
  | hdr0 ct => rw [hi] at h; obtain ⟨-, rfl⟩ := acceptHdr0_next h; exact .inl rfl
  | hdr1 ds => rw [hi] at h; obtain ⟨ct, -, rfl⟩ := acceptHdr1_next h; exact .inl rfl
  | litB b => rw [hi] at h; obtain ⟨-, rfl⟩ := literal_next h; exact .inl rfl
  | litA b => rw [hi] at h; obtain ⟨-, rfl⟩ := literal_next h; exact .inl rfl
  | eos => rw [hi] at h; obtain ⟨-, rfl⟩ := endOfStream_next h; exact .inl rfl
  | len bucket extra =>
    rw [hi] at h
    simp only [execItem] at h
    split at h
    · obtain ⟨-, rfl⟩ := endOfStream_next h; exact .inl rfl
    · obtain ⟨-, rfl⟩ := lengthPart_next h; exact .inl rfl
  | dist index low =>
    rw [hi] at h
    obtain ⟨m, ds, -, -, h⟩ := distancePart_next h
    obtain ⟨-, rfl⟩ | ⟨-, h⟩ := copyMatch_next h
    · exact .inr ⟨_, rfl⟩
    · exact .inl (copyBytes_replies h :)

theorem fitsCapacity_zero (capacity : Option Nat) : fitsCapacity capacity 0 = true := by
  cases capacity <;> simp [fitsCapacity]

/-- What the limits do to an item: they refuse the state it leads to exactly if that state exceeds one (R126). -/
theorem limited_exec {i : Instr} {s t : State} (h : exec i s = .next t) :
    limited s (exec i s) = if t.fits s.limits = true then .next t else .refused .limitExceeded := by
  have hreplies : ((t.replies.drop s.replies.length).all fun reply =>
      fitsCapacity s.limits.outCap reply.producedOutput.length) = true := by
    rcases exec_replies h with hr | ⟨e, hr⟩
    · simp [hr]
    · simp [hr, fitsCapacity_zero]
  rw [h]
  simp only [limited, hreplies, and_true]

/-- What it means that a counter fits. -/
theorem fitsWidth_iff (width : Option Nat) (n : Nat) : fitsWidth width n = true ↔ ∀ w, width = some w → n < 2 ^ w := by
  cases width <;> simp [fitsWidth]

/-- What it means that a buffer fits. -/
theorem fitsCapacity_iff (capacity : Option Nat) (n : Nat) :
    fitsCapacity capacity n = true ↔ ∀ c, capacity = some c → n ≤ c := by
  cases capacity <;> simp [fitsCapacity]

/-- What a state that has not failed keeps to when it fits the limits (R10). -/
theorem fits_bounds {t : State} {limits : Limits} (h : t.fits limits = true) (hph : t.phase ≠ .failed) :
    (∀ n ∈ t.counters, ∀ w, limits.posWidth = some w → n < 2 ^ w)
      ∧ (∀ c, limits.inCap = some c → t.input.mem.length ≤ c)
      ∧ (∀ c, limits.outCap = some c → t.output.mem.length ≤ c)
      ∧ ∀ c, limits.winCap = some c → t.windowStored ≤ c := by
  simpa only [State.fits, hph, decide_false, Bool.false_or, Bool.and_eq_true, List.all_eq_true, fitsWidth_iff,
    fitsCapacity_iff, and_assoc] using h

/-- Settles O18: the step at a place is the effect of the item decoded there, kept within the limits. -/
theorem stepRunsDecodedItem : Obligations.StepRunsDecodedItem := by
  refine ⟨?_, ?_, ?_⟩
  · intro s p i rest hp hd
    have hf : s.fetch p = .item i rest := hd
    have hengine : engineStep s = exec i s := by rw [engine_place hp, hf]; rfl
    have hstep : step s = limited s (exec i s) := by rw [step_eq_limited, hengine]
    refine ⟨fun hl => by rw [step_unbounded hl, hengine], fun t ht => ⟨fun hfit => ?_, fun hfit => ?_⟩⟩
    · rw [hstep, limited_exec ht, if_pos hfit]
    · rw [hstep, limited_exec ht, if_neg (by simp [hfit])]
  · intro s t h
    exact (engineStep_parameters (step_next h).1).symm
  · intro s t h hph
    obtain ⟨hcounters, hin, hout, hwin⟩ := fits_bounds (step_next h).2 hph
    refine ⟨fun w hw => ⟨?_, ?_, ?_, ?_, fun hk => ?_⟩, hin, hout, fun c ds hc hds => ?_⟩
    · exact hcounters _ (by simp [State.counters]) w hw
    · exact hcounters _ (by simp [State.counters]) w hw
    · exact hcounters _ (by simp [State.counters]) w hw
    · exact hcounters _ (by simp [State.counters]) w hw
    · exact hcounters _ (by simp [State.counters, hk]) w hw
    · have := hwin c hc
      rwa [State.windowStored, hds] at this

end Sys2Proof.Machine

/-! PROOFS. The moves of the machine: everything one step of a good state can do, said once. -/

namespace Sys2Proof.Machine

/-- The arguments an engine is created with, for each kind; `none` is no engine (R291, R292, R302). -/
def CreationLegal (k : Option Kind) (ct : Option CType) (ds : Option DSize) : Prop :=
  k = none ∨ (k = some .explode ∧ ct = none ∧ ds = none) ∨ (k = some .implode ∧ ∃ c d, ct = some c ∧ ds = some d)

/-- The end of an IMPLODE engine's stream, `o` being `OUT` with EOS and its padding (R272); its record is still to return. -/
def State.imploded (s : State) (o : Output) : State :=
  { s with
    bc := { partialByte := 0, bitsFilled := 0 }
    output := o
    flags := { s.flags with eosSeen := true, needsMore := false }
    phase := .done }

@[simp] theorem State.imploded_phase (s : State) (o : Output) : (s.imploded o).phase = .done := rfl
@[simp] theorem State.imploded_flags (s : State) (o : Output) :
    (s.imploded o).flags = { s.flags with eosSeen := true, needsMore := false } := rfl

/-- What a step can do from a good state `s`: the state it leads to, and what was true of `s` where the step does that. -/
inductive Move (s : State) : State → Prop where
  /-- Nothing but the host's queues: no request, or one that is refused (R296 to R298, R330). -/
  | queues (q : List Request) (r : List Reply) : Move s { s with requests := q, replies := r }
  | create {k : Option Kind} {ct : Option CType} {ds : Option DSize} (replaced : ¬ s.keepsInstance)
      (legal : CreationLegal k ct ds) (q : List Request) (r : List Reply) :
      Move s { s.created k ct ds with requests := q, replies := r }
  | beginFeed (idle : s.activity = .idle) (live : s.kind ≠ none) (phase : s.phase ≠ .failed)
      (ended : s.flags.streamEnded = false) (q : List Request) (chunk : List Byte) :
      Move s (State.beginFeed { s with requests := q } chunk)
  | beginFinish (idle : s.activity = .idle) (live : s.kind ≠ none) (phase : s.phase ≠ .failed)
      (ended : s.flags.streamEnded = false) (q : List Request) : Move s (State.beginFinish { s with requests := q })
  | headerByte0 (due : HeaderByteDue none s) (ct : CType) : Move s { s with hdr := { s.hdr with ctype := some ct } }
  | headerByte1 {ct : CType} (due : HeaderByteDue (some ct) s) (ds : DSize) :
      Move s { s with hdr := { s.hdr with dsize := some ds }, tables := explodeTables ct, ipos := 16, phase := .streaming }
  | literal {ct : CType} (due : SymbolDue ct s) {size : Nat} (there : s.ipos + size ≤ 8 * s.input.total) (b : Byte) :
      Move s { s.emitByte b with ipos := s.ipos + size }
  | length {ct : CType} (due : SymbolDue ct s) {m : PendingMatch} (long : Config.minLen ≤ m.length)
      (short : m.length ≤ Config.maxLen) (from_ipos : s.ipos ≤ m.pos) (there : m.pos ≤ 8 * s.input.total) :
      Move s { s with pending := some m }
  | endOfStream {ct : CType} (due : SymbolDue ct s) (there : s.ipos + 16 ≤ 8 * s.input.total) :
      Move s { (s.setEosSeen).setNeedsMore false with ipos := s.ipos + 16 }
  | copy {m : PendingMatch} {ds : DSize} (due : DistanceDue m ds s) {pos : Nat} {w : Window} {o : Output}
      (from_pos : m.pos ≤ pos) (there : pos ≤ 8 * s.input.total) (spaces : SpacesOk { s with win := w, output := o })
      (winLen : w.len = s.win.len + m.length) (count : o.count = s.output.count + m.length)
      (kept : ∀ a, a < s.win.len → w.mem.read a = s.win.mem.read a) :
      Move s { s with ipos := pos, pending := none, win := w, output := o }
  | fail (kind : s.kind = some .explode) (e : ErrorKind) : Move s (raise e s)
  /-- The input is used up: the engine streams, or an EXPLODE engine waits for its header (R207, R222, R262). -/
  | stop (activity : s.activity = .feed)
      (short : s.phase = .streaming
        ∨ (s.phase = .awaitingHeader ∧ s.kind = some .explode ∧ s.input.total < Config.hdrMinAvail)) :
      Move s s.stopForInput
  | stopAfterEos (kind : s.kind = some .explode) (activity : s.activity = .feed) (eos : s.flags.eosSeen = true) :
      Move s (s.setNeedsMore false).deliver
  | startFlushing (activity : s.activity = .finish) (phase : s.phase = .streaming) : Move s (s.setPhase .flushing)
  | endExplode (kind : s.kind = some .explode) (activity : s.activity = .finish) (eos : s.flags.eosSeen = true)
      (phase : s.phase = .flushing) : Move s (s.setPhase .done).deliver
  | startImplode (kind : s.kind = some .implode) (busy : s.activity ≠ .idle) (phase : s.phase = .awaitingHeader)
      {ct : CType} {ds : DSize} (header : s.hdr = { ctype := some ct, dsize := some ds }) :
      Move s { writeHeader ct ds s with tables := implodeTables ct, phase := .streaming }
  | emit {ct : CType} {n : Nat} {t : State} (kind : s.kind = some .implode) (busy : s.activity ≠ .idle)
      (phase : s.phase ≠ .awaitingHeader)
      (frame : t = { s with bc := t.bc, output := t.output, win := t.win, ipos := s.ipos + n }) (emitting : Emitting ct t)
      (there : s.ipos + n ≤ s.input.total) (kept : ∀ a, a < s.win.len → t.win.mem.read a = s.win.mem.read a) : Move s t
  | endImplode {o : Output} (kind : s.kind = some .implode) (activity : s.activity = .finish) (phase : s.phase = .flushing)
      (all : s.input.total ≤ s.ipos) (spaces : SpacesOk { s with output := o }) :
      Move s (s.imploded o).deliver

/-! ## Between transactions -/

theorem Move.answer (s : State) (q : List Request) (r : Reply) : Move s (State.reply { s with requests := q } r) :=
  .queues q (s.replies ++ [r])

/-- A request that makes or discards an engine keeps none. -/
theorem not_keepsInstance {s : State} {r : Request} {rest : List Request} (ha : s.activity = .idle)
    (hr : s.requests = r :: rest) (hfin : r ≠ .finish) (hfeed : ∀ chunk, r ≠ .feed chunk) : ¬ s.keepsInstance := by
  intro h
  rcases h ha r rest hr with h | ⟨chunk, h⟩
  · exact hfin h
  · exact hfeed chunk h

theorem acceptCreateImplode_move {s : State} (hn : ¬ s.keepsInstance) (ct ds : Byte) (q : List Request) :
    Move s (acceptCreateImplode ct ds { s with requests := q }) := by
  unfold acceptCreateImplode
  split
  · exact .create hn (.inl rfl) q _
  · exact .create hn (.inr (.inr ⟨rfl, _, _, rfl, rfl⟩)) q _

theorem accept_move {s t : State} {r : Request} {rest : List Request} (ha : s.activity = .idle)
    (hr : s.requests = r :: rest) (h : accept r { s with requests := rest } = .next t) : Move s t := by
  cases r with
  | createExplode =>
    cases h
    exact .create (not_keepsInstance ha hr (by simp) (by simp)) (.inr (.inl ⟨rfl, rfl, rfl⟩)) rest _
  | createImplode ct ds =>
    cases h
    exact acceptCreateImplode_move (not_keepsInstance ha hr (by simp) (by simp)) ct ds rest
  | feed chunk =>
    obtain ⟨hk, ⟨-, rfl⟩ | ⟨-, -, rfl⟩ | ⟨hph, he, -, rfl⟩⟩ := acceptFeed_next h
    · exact .answer s rest _
    · exact .answer s rest _
    · exact .beginFeed ha hk hph he rest chunk
  | finish =>
    obtain ⟨hk, ⟨-, rfl⟩ | ⟨-, -, rfl⟩ | ⟨hph, he, rfl⟩⟩ := acceptFinish_next h
    · exact .answer s rest _
    · exact .answer s rest _
    · exact .beginFinish ha hk hph he rest
  | discard =>
    cases h
    exact .create (not_keepsInstance ha hr (by simp) (by simp)) (.inl rfl) rest s.replies

theorem idleStep_move {s t : State} (ha : s.activity = .idle) (h : idleStep s = .next t) : Move s t := by
  obtain ⟨-, rfl⟩ | ⟨r, rest, hr, h⟩ := idleStep_next h
  · exact .queues _ _
  · exact accept_move ha hr h

/-! ## An EXPLODE engine -/

theorem SymbolDue.itemStart {ct : CType} {s : State} {p : Place} (h : SymbolDue ct s) (hp : s.place = some p) :
    s.itemStart p = s.ipos := by
  obtain rfl : p = .symbol ct := Option.some.inj (hp.symm.trans h.place)
  rfl

theorem DistanceDue.itemStart {m : PendingMatch} {ds : DSize} {s : State} {p : Place} (h : DistanceDue m ds s)
    (hp : s.place = some p) : s.itemStart p = m.pos := by
  obtain rfl : p = .distance _ := Option.some.inj (hp.symm.trans h.place)
  simp [State.itemStart, h.pending]

/-- An item due in `Streaming` starts among the bytes still in `IN`. -/
theorem itemStart_bounds {s : State} {p : Place} (h : Inv s) (hp : s.place = some p) (hph : s.phase = .streaming) :
    8 * s.input.base ≤ s.itemStart p ∧ s.itemStart p ≤ 8 * s.input.total := by
  rcases start_le h hp hph with ⟨hbase, htotal, -⟩ | rfl | rfl
  · exact ⟨hbase, htotal⟩
  · have := (place_hdr0 hp).phase
    simp [hph] at this
  · obtain ⟨ct, hd⟩ := place_hdr1 hp
    have := hd.phase
    simp [hph] at this

/-- A decoded item of a streaming engine ends inside the received input, and its operands are in range (R24, R38). -/
theorem fetched_item {s : State} {p : Place} {i : Instr} {rest : Bits} (h : Inv s) (hp : s.place = some p)
    (hph : s.phase = .streaming) (hf : s.fetch p = .item i rest) :
    s.itemStart p + itemBits i.item ≤ 8 * s.input.total ∧ i.item.inRange := by
  obtain ⟨ct, htab, hat⟩ := explode_tablesAt h hp hph
  obtain ⟨hbase, htotal⟩ := itemStart_bounds h hp hph
  rw [State.fetch, htab] at hf
  obtain ⟨hlen, hrange, -⟩ := decode_stands hf hat
  rw [State.fetchBits, bitsFrom_length h.spaces _ hbase] at hlen
  exact ⟨by omega, hrange⟩

theorem SymbolDue.fetched {ct : CType} {s : State} {p : Place} {i : Instr} {rest : Bits} (due : SymbolDue ct s) (h : Inv s)
    (hp : s.place = some p) (hf : s.fetch p = .item i rest) :
    s.ipos + itemBits i.item ≤ 8 * s.input.total ∧ i.item.inRange := by
  rw [← due.itemStart hp]
  exact fetched_item h hp due.phase hf

/-- The decoded DIST part: an error before the first byte, or the whole copy (R226, R233). -/
theorem distancePart_move {s t : State} {p : Place} {index : Nat} {low : DistLow} (h : Inv s) (hp : s.place = some p)
    (there : s.itemStart p + itemBits (.dist index low) ≤ 8 * s.input.total)
    (ht : distancePart index low s = .next t) : Move s t := by
  obtain ⟨m, ds, due, -, hc⟩ := distancePart_next ht
  rw [due.itemStart hp] at there
  rcases copyMatch_next hc with ⟨-, rfl⟩ | ⟨hreach, hcopy⟩
  · exact .fail due.kind .malformedSymbol
  · obtain ⟨u, hu, hframe, hspaces, hlen, hcount, -, hkept, -⟩ :=
      copyBytes_spec m.length (h.spaces.congr (t := s.atCopy m index low) rfl rfl rfl) (matchOffset_pos index low) hreach
    obtain rfl : u = t := Option.some.inj (hu.symm.trans hcopy)
    have hinput : u.input = s.input := by rw [hframe]; rfl
    rw [hframe]
    exact .copy due (Nat.le_add_right _ _) there (hspaces.congr rfl hinput.symm rfl) hlen hcount hkept

theorem exec_move {s t : State} {p : Place} {i : Instr} {rest : Bits} (h : Inv s) (hp : s.place = some p)
    (hf : s.fetch p = .item i rest) (ht : exec i s = .next t) : Move s t := by
  have symbol : ∀ {ct}, SymbolDue ct s → s.ipos + itemBits i.item ≤ 8 * s.input.total ∧ i.item.inRange :=
    fun due => due.fetched h hp hf
  rw [exec_eq_execItem] at ht
  cases hi : i.item with
  | hdr0 ct =>
    rw [hi] at ht
    obtain ⟨due, rfl⟩ := acceptHdr0_next ht
    exact .headerByte0 due ct
  | hdr1 ds =>
    rw [hi] at ht
    obtain ⟨ct, due, rfl⟩ := acceptHdr1_next ht
    exact .headerByte1 due ds
  | litB b =>
    rw [hi] at ht symbol
    obtain ⟨due, rfl⟩ := literal_next ht
    exact .literal due (symbol due).1 b
  | litA b =>
    rw [hi] at ht symbol
    obtain ⟨due, rfl⟩ := literal_next ht
    exact .literal due (symbol due).1 b
  | len bucket extra =>
    rw [hi] at ht symbol
    simp only [execItem] at ht
    split at ht
    · obtain ⟨⟨ct, due⟩, -⟩ := endOfStream_next ht
      obtain ⟨-, -, -, notEos⟩ := symbol due
      exact absurd ‹_› notEos
    · obtain ⟨⟨ct, due⟩, rfl⟩ := lengthPart_next ht
      obtain ⟨there, hbucket, hextra, notEos⟩ := symbol due
      obtain ⟨long, short⟩ := len_range hbucket hextra notEos
      exact .length due long short (Nat.le_add_right _ _) there
  | eos =>
    rw [hi] at ht symbol
    obtain ⟨⟨ct, due⟩, rfl⟩ := endOfStream_next ht
    exact .endOfStream due (symbol due).1
  | dist index low =>
    rw [hi] at ht
    obtain ⟨m, ds, due, -⟩ := distancePart_next ht
    have there := (fetched_item h hp due.phase hf).1
    rw [hi] at there
    exact distancePart_move h hp there ht

/-- A header byte that is due is wholly there: only a symbol can need more (R205, R228). -/
theorem streaming_of_needMore {s : State} {p : Place} (h : Inv s) (hp : s.place = some p) (hf : s.fetch p = .needMore) :
    s.phase = .streaming := by
  obtain ⟨-, ha, -⟩ := place_some hp
  rcases (h.control.feed ha).1 with hph | hph
  · rcases fetch_header h hp hph with
      ⟨-, -, ⟨ct, rest, hi⟩ | ⟨b, hi⟩⟩ | ⟨-, -, ⟨ds, rest, hi⟩ | ⟨b, hi⟩⟩ <;> rw [hf] at hi <;> cases hi
  · exact hph

theorem afterFetch_move {s t : State} {p : Place} (h : Inv s) (hp : s.place = some p)
    (ht : afterFetch (s.fetch p) s = .next t) : Move s t := by
  obtain ⟨hk, ha, -⟩ := place_some hp
  cases hf : s.fetch p with
  | item i rest => rw [hf] at ht; exact exec_move h hp hf ht
  | needMore => rw [hf] at ht; cases ht; exact .stop ha (.inl (streaming_of_needMore h hp hf))
  | badCompressionType b => rw [hf] at ht; cases ht; exact .fail hk _
  | badDictionarySize b => rw [hf] at ht; cases ht; exact .fail hk _
  | malformedSymbol => rw [hf] at ht; cases ht; exact .fail hk _
  | tableNotBuilt => rw [hf] at ht; cases ht

/-- Before the header, nothing is due only with too few bytes (R207). -/
theorem few_of_place_none {s : State} (hk : s.kind = some .explode) (ha : s.activity = .feed)
    (he : s.flags.eosSeen ≠ true) (hph : s.phase = .awaitingHeader) (hp : s.place = none) :
    s.input.total < Config.hdrMinAvail := by
  by_contra hge
  have due : HeaderByteDue s.hdr.ctype s := ⟨hk, ha, by simpa using he, hph, by omega, rfl⟩
  have := due.place
  rw [hp] at this
  cases this

theorem explodeFeed_move {s t : State} (h : Inv s) (hk : s.kind = some .explode) (ha : s.activity = .feed)
    (ht : explodeFeed s = .next t) : Move s t := by
  unfold explodeFeed at ht
  split at ht
  · exact afterFetch_move h ‹_› ht
  · rename_i hp
    unfold explodeEndFeed at ht
    split at ht
    · cases ht
      exact .stopAfterEos hk ha ‹_›
    · split at ht
      · rename_i he hph
        cases ht
        exact .stop ha (.inr ⟨hph, hk, few_of_place_none hk ha he hph hp⟩)
      · cases ht

theorem explodeFinish_move {s t : State} (hk : s.kind = some .explode) (ha : s.activity = .finish)
    (ht : explodeFinish s = .next t) : Move s t := by
  unfold explodeFinish at ht
  split at ht
  · cases ht; exact .fail hk _
  · cases ht; exact .startFlushing ha ‹_›
  · split at ht
    · cases ht; exact .endExplode hk ha ‹_› ‹_›
    · cases ht; exact .fail hk _
  · cases ht
  · cases ht

/-! ## An IMPLODE engine -/

theorem startImplode_move {s t : State} (hk : s.kind = some .implode) (ha : s.activity ≠ .idle)
    (hph : s.phase = .awaitingHeader) (ht : startImplode s = .next t) : Move s t := by
  unfold startImplode at ht
  split at ht
  · rename_i ct ds hct hds
    cases ht
    exact .startImplode hk ha hph (by rw [← hct, ← hds])
  · cases ht

/-- One decision: the match or literal emitted lies inside the input (R262, R266). -/
theorem decidePosition_move {s t : State} (h : Inv s) (hk : s.kind = some .implode) (ha : s.activity ≠ .idle)
    (hph : s.phase ≠ .awaitingHeader) (hlt : s.ipos < s.input.total) (ht : decidePosition s = .next t) : Move s t := by
  obtain ⟨ct, ds, hhdr, ready⟩ := emitting (h.implode hk) h.spaces hph
  simp only [decidePosition, hhdr] at ht
  split at ht
  · rename_i hmin
    obtain ⟨hmax, hin, hpos, hreach, hshort, -⟩ := findMatch_spec s (windowReach ds) s.ipos hmin
    obtain ⟨i, e, hi, he, hne, hlen⟩ := matchLength_exists hmin hmax
    rw [← hlen] at hin hshort ht
    have there : s.ipos + matchLength i e ≤ s.input.total := by omega
    obtain ⟨u, -, hu, -, -, hframe, hemit, -, hkept, -⟩ := emitMatch_spec ready ds hi he hne hpos
      (distanceIndex_lt _ (hreach.trans (Nat.min_le_left _ _)) hshort) there
    obtain rfl : u = t := Host.Outcome.next.inj (hu.symm.trans ht)
    exact .emit hk ha hph hframe hemit there hkept
  · obtain ⟨u, -, hu, -, hframe, hemit, -, hkept, -⟩ := emitLiteral_spec ready hlt
    obtain rfl : u = t := Host.Outcome.next.inj (hu.symm.trans ht)
    exact .emit hk ha hph hframe hemit hlt hkept

/-- After `finish` every position is decided (R262, R263). -/
theorem all_of_not_canDecide {s : State} (he : s.flags.streamEnded = true) (h : s.canDecide ≠ true) :
    s.input.total ≤ s.ipos := by
  by_contra hlt
  exact h (by simp [State.canDecide, he]; omega)

theorem endImplode_move {s t : State} (h : Inv s) (hk : s.kind = some .implode) (ha : s.activity = .finish)
    (hph : s.phase = .flushing) (hc : s.canDecide ≠ true) (ht : endImplode s = .next t) : Move s t := by
  have all := all_of_not_canDecide (h.control.finish ha).2.1 hc
  obtain ⟨ct, ds, -, ready⟩ := emitting (h.implode hk) h.spaces (by simp [hph])
  obtain ⟨u, hu, uspaces, ucursor, -, uframe⟩ := emitEos_spec ready
  obtain ⟨fspaces, fcursor, -, fframe⟩ := flush_spec uspaces ucursor
  rw [endImplode, hu] at ht
  cases ht
  generalize u.flush = v at fspaces fcursor fframe
  rw [fcursor, uframe] at fframe
  have hwin : v.win = s.win := by rw [fframe]
  have hinput : v.input = s.input := by rw [fframe]
  rw [fframe]
  exact .endImplode hk ha hph all (fspaces.congr hwin.symm hinput.symm rfl)

theorem implodeFeed_move {s t : State} (h : Inv s) (hk : s.kind = some .implode) (ha : s.activity = .feed)
    (ht : implodeFeed s = .next t) : Move s t := by
  have busy : s.activity ≠ .idle := by simp [ha]
  unfold implodeFeed at ht
  split at ht
  · exact startImplode_move hk busy ‹_› ht
  · rename_i hph
    split at ht
    · exact decidePosition_move h hk busy (by simp [hph]) (canDecide_lt ‹_›) ht
    · cases ht; exact .stop ha (.inl hph)
  all_goals cases ht

theorem implodeFinish_move {s t : State} (h : Inv s) (hk : s.kind = some .implode) (ha : s.activity = .finish)
    (ht : implodeFinish s = .next t) : Move s t := by
  have busy : s.activity ≠ .idle := by simp [ha]
  unfold implodeFinish at ht
  split at ht
  · exact startImplode_move hk busy ‹_› ht
  · cases ht; exact .startFlushing ha ‹_›
  · rename_i hph
    split at ht
    · exact decidePosition_move h hk busy (by simp [hph]) (canDecide_lt ‹_›) ht
    · exact endImplode_move h hk ha hph ‹_› ht
  all_goals cases ht

/-! ## The machine -/

/-- Every step from a good state is one of the moves. -/
theorem step_move {s t : State} (h : Inv s) (hs : step s = .next t) : Move s t := by
  have ht := (step_next hs).1
  cases ha : s.activity with
  | idle => rw [engine_idle ha] at ht; exact idleStep_move ha ht
  | feed =>
    rcases kind_of_busy h (by simp [ha]) with hk | hk
    · rw [engine_feed hk ha] at ht; exact explodeFeed_move h hk ha ht
    · rw [engine_impl_feed hk ha] at ht; exact implodeFeed_move h hk ha ht
  | finish =>
    rcases kind_of_busy h (by simp [ha]) with hk | hk
    · rw [engine_finish hk ha] at ht; exact explodeFinish_move hk ha ht
    · rw [engine_impl_finish hk ha] at ht; exact implodeFinish_move h hk ha ht

end Sys2Proof.Machine

/-! PROOFS. O55: every move keeps the invariant. -/

namespace Sys2Proof.Machine

/-! ## The control part of a state that has not failed -/

theorem ControlOk.of_feed {t : State} (live : t.kind ≠ none) (err : t.err = none) (activity : t.activity = .feed)
    (phase : t.phase = .awaitingHeader ∨ t.phase = .streaming) (ended : t.flags.streamEnded = false)
    (needsMore : t.flags.needsMore = false) : ControlOk t where
  err_iff := by rcases phase with h | h <;> simp [err, h]
  no_instance hk := absurd hk live
  idle ha := by simp [activity] at ha
  idle_ended ha := by simp [activity] at ha
  done hd := by rcases phase with h | h <;> simp [h] at hd
  feed _ := ⟨phase, ended, needsMore⟩
  finish ha := by simp [activity] at ha

theorem ControlOk.of_finish {t : State} (live : t.kind ≠ none) (err : t.err = none) (activity : t.activity = .finish)
    (phase : t.phase = .awaitingHeader ∨ t.phase = .streaming ∨ t.phase = .flushing) (ended : t.flags.streamEnded = true)
    (needsMore : t.flags.needsMore = false) (pending : t.pending = none) : ControlOk t where
  err_iff := by rcases phase with h | h | h <;> simp [err, h]
  no_instance hk := absurd hk live
  idle ha := by simp [activity] at ha
  idle_ended ha := by simp [activity] at ha
  done hd := by rcases phase with h | h | h <;> simp [h] at hd
  feed ha := by simp [activity] at ha
  finish _ := ⟨phase, ended, needsMore, pending⟩

/-- The end of a `feed`: the stream goes on (R222). -/
theorem ControlOk.of_idle {t : State} (live : t.kind ≠ none) (err : t.err = none) (activity : t.activity = .idle)
    (phase : t.phase = .awaitingHeader ∨ t.phase = .streaming) (ended : t.flags.streamEnded = false)
    (output : t.output.mem = []) (pending : t.pending = none) : ControlOk t where
  err_iff := by rcases phase with h | h <;> simp [err, h]
  no_instance hk := absurd hk live
  idle _ := ⟨output, pending, by rcases phase with h | h <;> simp [h]⟩
  idle_ended _ _ := by rcases phase with h | h <;> simp [h, ended]
  done hd := by rcases phase with h | h <;> simp [h] at hd
  feed ha := by simp [activity] at ha
  finish ha := by simp [activity] at ha

/-- The end of a `finish`: the stream is done (R231, R272). -/
theorem ControlOk.of_done {t : State} (live : t.kind ≠ none) (err : t.err = none) (activity : t.activity = .idle)
    (phase : t.phase = .done) (eos : t.flags.eosSeen = true) (ended : t.flags.streamEnded = true)
    (needsMore : t.flags.needsMore = false) (output : t.output.mem = []) (pending : t.pending = none) : ControlOk t where
  err_iff := by simp [err, phase]
  no_instance hk := absurd hk live
  idle _ := ⟨output, pending, by simp [phase]⟩
  idle_ended _ _ := by simp [phase, ended]
  done _ := ⟨eos, needsMore⟩
  feed ha := by simp [activity] at ha
  finish ha := by simp [activity] at ha

/-! ## Good states of one kind -/

theorem Inv.of_explode {t : State} (kind : t.kind = some .explode) (spaces : SpacesOk t) (control : ControlOk t)
    (engine : ExplodeOk t) : Inv t := ⟨spaces, control, fun _ _ => engine, by simp [kind]⟩

theorem Inv.of_implode {t : State} (kind : t.kind = some .implode) (spaces : SpacesOk t) (control : ControlOk t)
    (engine : ImplodeOk t) : Inv t := ⟨spaces, control, by simp [kind], fun _ => engine⟩

theorem ExplodeOk.of_due {t : State} (phase : t.phase = .awaitingHeader) (due : HeaderDue t)
    (cursor : t.bc = { partialByte := 0, bitsFilled := 0 }) (count : t.output.count = t.win.len) : ExplodeOk t :=
  ⟨fun _ => due, fun h => absurd phase h, cursor, count, by simp [due.pending]⟩

theorem ExplodeOk.of_read {t : State} (phase : t.phase ≠ .awaitingHeader) (read : HeaderRead t)
    (cursor : t.bc = { partialByte := 0, bitsFilled := 0 }) (count : t.output.count = t.win.len)
    (pending : t.pending = none) : ExplodeOk t :=
  ⟨fun h => absurd h phase, fun _ => read, cursor, count, by simp [pending]⟩

/-- The position moves inside the input, and the parsed header stays (R24, R38). -/
theorem HeaderRead.advance {s t : State} (h : HeaderRead s) (hdr : t.hdr = s.hdr) (tables : t.tables = s.tables)
    (input : t.input = s.input) (from_ipos : s.ipos ≤ t.ipos) (there : t.ipos ≤ 8 * s.input.total) : HeaderRead t where
  header := by rw [hdr, tables]; exact h.header
  ipos_ge := h.ipos_ge.trans from_ipos
  ipos_le := by rw [input]; exact there
  base_le := by rw [input]; exact h.base_le.trans from_ipos

/-- Only bytes before `IPOS` are dropped (R25). -/
theorem HeaderRead.deliver {s : State} (h : HeaderRead s) (kind : s.kind = some .explode) : HeaderRead s.deliver where
  header := h.header
  ipos_ge := h.ipos_ge
  ipos_le := h.ipos_le
  base_le := by
    have := h.base_le
    simp only [State.deliver_input, Input.dropTo_base, State.consumedBytes, kind, State.deliver_ipos]
    omega

/-- An IMPLODE engine between the start and the end of its stream. -/
theorem ImplodeOk.of_running {t : State} (phase : t.phase = .streaming ∨ t.phase = .flushing)
    (header : ∃ ct ds, t.hdr = { ctype := some ct, dsize := some ds } ∧ t.tables = implodeTables ct)
    (pending : t.pending = none) (window : t.win.len = t.ipos) (ipos_le : t.ipos ≤ t.input.total)
    (base_le : t.input.base ≤ t.ipos) (cursor : t.bc.partialByte >>> t.bc.bitsFilled.toNat = 0)
    (eos : t.flags.eosSeen = false) : ImplodeOk t where
  not_failed := by rcases phase with h | h <;> simp [h]
  header := by
    obtain ⟨ct, ds, hdr, tables⟩ := header
    exact ⟨ct, ds, hdr, fun ha => by rcases phase with h | h <;> simp [h] at ha, fun _ => tables⟩
  pending := pending
  window := window
  ipos_le := ipos_le
  base_le := base_le
  cursor := cursor
  eos := by rcases phase with h | h <;> simp [h, eos]
  done hd := by rcases phase with h | h <;> simp [h] at hd

/-! ## What a good state says of itself -/

theorem Inv.err_none {s : State} (h : Inv s) (hph : s.phase ≠ .failed) : s.err = none := by
  have := mt h.control.err_iff.1 hph
  simpa using this

/-- Inside a transaction there is an engine that has neither failed nor ended. -/
theorem Inv.busy {s : State} (h : Inv s) (ha : s.activity ≠ .idle) :
    s.kind ≠ none ∧ (s.phase = .awaitingHeader ∨ s.phase = .streaming ∨ s.phase = .flushing) := by
  refine ⟨fun hk => ha (h.control.no_instance hk).1, ?_⟩
  cases hact : s.activity with
  | idle => exact absurd hact ha
  | feed => exact (h.control.feed hact).1.imp_right .inl
  | finish => exact (h.control.finish hact).1

theorem Inv.err_none_of_busy {s : State} (h : Inv s) (ha : s.activity ≠ .idle) : s.err = none := by
  obtain ⟨-, hph⟩ := h.busy ha
  exact h.err_none (by rcases hph with hph | hph | hph <;> simp [hph])

/-- A move inside a transaction keeps the control part: the engine stays in its phase or starts streaming. -/
theorem Inv.control_busy {s t : State} (h : Inv s) (busy : s.activity ≠ .idle) (kind : t.kind = s.kind) (err : t.err = s.err)
    (activity : t.activity = s.activity) (phase : t.phase = s.phase ∨ t.phase = .streaming)
    (ended : t.flags.streamEnded = s.flags.streamEnded) (needsMore : s.flags.needsMore = false → t.flags.needsMore = false)
    (pending : s.activity = .finish → s.pending = none → t.pending = none) : ControlOk t := by
  have live : t.kind ≠ none := by rw [kind]; exact (h.busy busy).1
  have noErr : t.err = none := by rw [err]; exact h.err_none_of_busy busy
  cases ha : s.activity with
  | idle => exact absurd ha busy
  | feed =>
    obtain ⟨hph, hended, hmore⟩ := h.control.feed ha
    exact .of_feed live noErr (by rw [activity, ha]) (phase.elim (fun hp => by rwa [hp]) .inr) (by rw [ended, hended])
      (needsMore hmore)
  | finish =>
    obtain ⟨hph, hended, hmore, hpending⟩ := h.control.finish ha
    exact .of_finish live noErr (by rw [activity, ha]) (phase.elim (fun hp => by rwa [hp]) fun hp => .inr (.inl hp))
      (by rw [ended, hended]) (needsMore hmore) (pending ha hpending)

theorem SymbolDue.busy {ct : CType} {s : State} (due : SymbolDue ct s) : s.activity ≠ .idle := by simp [due.activity]

theorem DistanceDue.busy {m : PendingMatch} {ds : DSize} {s : State} (due : DistanceDue m ds s) : s.activity ≠ .idle := by
  simp [due.activity]

theorem HeaderByteDue.busy {first : Option CType} {s : State} (due : HeaderByteDue first s) : s.activity ≠ .idle := by
  simp [due.activity]

/-- What a streaming EXPLODE engine has read. -/
theorem Inv.headerRead {s : State} (h : Inv s) (kind : s.kind = some .explode) (phase : s.phase = .streaming) :
    ExplodeOk s ∧ HeaderRead s :=
  ⟨h.explode kind (by simp [phase]), (h.explode kind (by simp [phase])).read (by simp [phase])⟩

/-- What an EXPLODE engine holds before its header. -/
theorem Inv.headerDue {s : State} (h : Inv s) (kind : s.kind = some .explode) (phase : s.phase = .awaitingHeader) :
    ExplodeOk s ∧ HeaderDue s :=
  ⟨h.explode kind (by simp [phase]), (h.explode kind (by simp [phase])).due phase⟩

/-! ## The items of an EXPLODE engine -/

theorem inv_headerByte0 {s : State} (h : Inv s) (due : HeaderByteDue none s) (ct : CType) :
    Inv { s with hdr := { s.hdr with ctype := some ct } } := by
  obtain ⟨ok, d⟩ := h.headerDue due.kind due.phase
  refine .of_explode due.kind (h.spaces.congr rfl rfl rfl)
    (h.control_busy due.busy rfl rfl rfl (.inl rfl) rfl id fun _ => id) (.of_due due.phase ?_ ok.cursor ok.count)
  exact ⟨d.ipos, d.base, d.dsize, d.tables, d.pending, d.eos, fun _ => ⟨due.activity, due.enough⟩, d.few, d.nothing⟩

theorem inv_headerByte1 {s : State} {ct : CType} (h : Inv s) (due : HeaderByteDue (some ct) s) (ds : DSize) :
    Inv { s with hdr := { s.hdr with dsize := some ds }, tables := explodeTables ct, ipos := 16, phase := .streaming } := by
  obtain ⟨ok, d⟩ := h.headerDue due.kind due.phase
  have enough := due.enough
  refine .of_explode due.kind (h.spaces.congr rfl rfl rfl)
    (h.control_busy due.busy rfl rfl rfl (.inr rfl) rfl id fun _ => id)
    (.of_read (by simp) ?_ ok.cursor ok.count d.pending)
  exact ⟨⟨ct, ds, by simp [due.ctype], rfl⟩, Nat.le_refl _,
    by simp only [Config.hdrMinAvail] at enough ⊢; omega, by simp [d.base]⟩

theorem inv_literal {s : State} {ct : CType} {size : Nat} (h : Inv s) (due : SymbolDue ct s)
    (there : s.ipos + size ≤ 8 * s.input.total) (b : Byte) : Inv { s.emitByte b with ipos := s.ipos + size } := by
  obtain ⟨ok, read⟩ := h.headerRead due.kind due.phase
  exact .of_explode due.kind ((h.spaces.emitByte b).congr rfl rfl rfl)
    (h.control_busy due.busy rfl rfl rfl (.inl rfl) rfl id fun _ => id)
    (.of_read (by simp [due.phase]) (read.advance rfl rfl rfl (Nat.le_add_right _ _) there) ok.cursor
      (congrArg Nat.succ ok.count) due.pending)

theorem inv_length {s : State} {ct : CType} {m : PendingMatch} (h : Inv s) (due : SymbolDue ct s)
    (long : Config.minLen ≤ m.length) (short : m.length ≤ Config.maxLen) (from_ipos : s.ipos ≤ m.pos)
    (there : m.pos ≤ 8 * s.input.total) : Inv { s with pending := some m } := by
  obtain ⟨ok, read⟩ := h.headerRead due.kind due.phase
  refine .of_explode due.kind (h.spaces.congr rfl rfl rfl)
    (h.control_busy due.busy rfl rfl rfl (.inl rfl) rfl id fun hfin => by simp [due.activity] at hfin)
    ⟨fun hph => by simp [due.phase] at hph, fun _ => read.advance rfl rfl rfl (Nat.le_refl _) read.ipos_le, ok.cursor,
      ok.count, ?_⟩
  rintro _ ⟨⟩
  exact ⟨due.phase, due.activity, due.eos, long, short, from_ipos, there⟩

theorem inv_endOfStream {s : State} {ct : CType} (h : Inv s) (due : SymbolDue ct s)
    (there : s.ipos + 16 ≤ 8 * s.input.total) : Inv { (s.setEosSeen).setNeedsMore false with ipos := s.ipos + 16 } := by
  obtain ⟨ok, read⟩ := h.headerRead due.kind due.phase
  exact .of_explode due.kind (h.spaces.congr rfl rfl rfl)
    (h.control_busy due.busy rfl rfl rfl (.inl rfl) rfl (fun _ => rfl) fun _ => id)
    (.of_read (by simp [due.phase]) (read.advance rfl rfl rfl (Nat.le_add_right _ _) there) ok.cursor ok.count due.pending)

theorem inv_copy {s : State} {m : PendingMatch} {ds : DSize} {pos : Nat} {w : Window} {o : Output} (h : Inv s)
    (due : DistanceDue m ds s) (from_pos : m.pos ≤ pos) (there : pos ≤ 8 * s.input.total)
    (spaces : SpacesOk { s with win := w, output := o }) (winLen : w.len = s.win.len + m.length)
    (count : o.count = s.output.count + m.length) : Inv { s with ipos := pos, pending := none, win := w, output := o } := by
  obtain ⟨ok, read⟩ := h.headerRead due.kind due.phase
  obtain ⟨-, -, -, -, -, from_ipos, -⟩ := ok.pending m due.pending
  exact .of_explode due.kind (spaces.congr rfl rfl rfl)
    (h.control_busy due.busy rfl rfl rfl (.inl rfl) rfl id fun _ _ => rfl)
    (.of_read (by simp [due.phase]) (read.advance rfl rfl rfl (from_ipos.trans from_pos) there) ok.cursor
      (by simp only [winLen, count, ok.count]) rfl)

/-! ## The transactions begin -/

/-- Between transactions an engine that has neither failed nor ended waits for its header or for more of its stream. -/
theorem Inv.waiting {s : State} (h : Inv s) (idle : s.activity = .idle) (alive : s.phase ≠ .failed)
    (ended : s.flags.streamEnded = false) : s.phase = .awaitingHeader ∨ s.phase = .streaming := by
  obtain ⟨-, -, notFlushing⟩ := h.control.idle idle
  have notDone : s.phase ≠ .done := fun hd => by simp [(h.control.idle_ended idle alive).2 hd] at ended
  cases hph : s.phase with
  | awaitingHeader => exact .inl rfl
  | streaming => exact .inr rfl
  | flushing => exact absurd hph notFlushing
  | done => exact absurd hph notDone
  | failed => exact absurd hph alive

theorem ExplodeOk.begin {s : State} (h : ExplodeOk s) (idle : s.activity = .idle) (noPending : s.pending = none)
    (a : Activity) (more ended : Bool) {i : Input} (base : i.base = s.input.base) (total : s.input.total ≤ i.total)
    (few : a ≠ .feed → i.total = s.input.total) : ExplodeOk { s with
      flags := { s.flags with needsMore := more, streamEnded := ended }, input := i, activity := a } where
  due hph := by
    have d := h.due hph
    exact ⟨d.ipos, base.trans d.base, d.dsize, d.tables, d.pending, d.eos,
      fun hne => absurd (d.ctype hne).1 (by simp [idle]),
      fun hf => (few hf).trans_lt (d.few (by simp [idle])), d.nothing⟩
  read hph := by
    have r := h.read hph
    exact ⟨r.header, r.ipos_ge, r.ipos_le.trans (Nat.mul_le_mul_left 8 total),
      (Nat.mul_le_mul_left 8 (Nat.le_of_eq base)).trans r.base_le⟩
  cursor := h.cursor
  count := h.count
  pending := by simp [noPending]

theorem ImplodeOk.begin {s : State} (h : ImplodeOk s) (notDone : s.phase ≠ .done) (a : Activity) (more ended : Bool)
    {i : Input} (base : i.base = s.input.base) (total : s.input.total ≤ i.total) : ImplodeOk { s with
      flags := { s.flags with needsMore := more, streamEnded := ended }, input := i, activity := a } :=
  ⟨h.not_failed, h.header, h.pending, h.window, h.ipos_le.trans total, (Nat.le_of_eq base).trans h.base_le, h.cursor,
    h.eos, fun hd => absurd hd notDone⟩

theorem inv_beginFeed {s : State} (h : Inv s) (idle : s.activity = .idle) (live : s.kind ≠ none) (alive : s.phase ≠ .failed)
    (ended : s.flags.streamEnded = false) (chunk : List Byte) : Inv (s.beginFeed chunk) := by
  have phase := h.waiting idle alive ended
  obtain ⟨-, noPending, -⟩ := h.control.idle idle
  obtain ⟨base, total, -, -⟩ := Input.receive_spec s.input chunk
  have grows : s.input.total ≤ (s.input.receive chunk).total := by omega
  refine ⟨h.spaces.beginFeed chunk, .of_feed live (h.err_none alive) rfl phase ended rfl, fun hk _ => ?_, fun hk => ?_⟩
  · exact (h.explode hk alive).begin idle noPending .feed false s.flags.streamEnded base grows fun hf => absurd rfl hf
  · exact (h.implode hk).begin (by rcases phase with hp | hp <;> simp [hp]) .feed false s.flags.streamEnded base grows

theorem inv_beginFinish {s : State} (h : Inv s) (idle : s.activity = .idle) (live : s.kind ≠ none)
    (alive : s.phase ≠ .failed) (ended : s.flags.streamEnded = false) : Inv s.beginFinish := by
  have phase := h.waiting idle alive ended
  obtain ⟨-, noPending, -⟩ := h.control.idle idle
  refine ⟨h.spaces.congr rfl rfl rfl,
    .of_finish live (h.err_none alive) rfl (phase.imp_right .inl) rfl rfl noPending, fun hk _ => ?_, fun hk => ?_⟩
  · exact (h.explode hk alive).begin idle noPending .finish false true rfl (Nat.le_refl _) fun _ => rfl
  · exact (h.implode hk).begin (by rcases phase with hp | hp <;> simp [hp]) .finish false true rfl (Nat.le_refl _)

/-! ## The transactions end -/

theorem ExplodeOk.deliver {s : State} (kind : s.kind = some .explode) (phase : s.phase ≠ .awaitingHeader)
    (read : HeaderRead s) (cursor : s.bc = { partialByte := 0, bitsFilled := 0 }) (count : s.output.count = s.win.len) :
    ExplodeOk s.deliver := .of_read phase (read.deliver kind) cursor count rfl

/-- An IMPLODE engine drops the bytes below `IPOS` only (R25). -/
theorem deliver_base_le {s : State} (kind : s.kind = some .implode) (base_le : s.input.base ≤ s.ipos) :
    s.deliver.input.base ≤ s.ipos := by
  simp only [State.deliver_input, Input.dropTo_base, State.consumedBytes, kind]
  omega

/-- The end of a `feed` of an EXPLODE engine that streams, with either value of `NEEDS_MORE` (R222). -/
theorem inv_deliver_streaming {s : State} (h : Inv s) (kind : s.kind = some .explode) (activity : s.activity = .feed)
    (phase : s.phase = .streaming) (more : Bool) : Inv (s.setNeedsMore more).deliver := by
  obtain ⟨ok, read⟩ := h.headerRead kind phase
  have busy : s.activity ≠ .idle := by simp [activity]
  exact .of_explode kind (h.spaces.congr (t := s.setNeedsMore more) rfl rfl rfl).deliver
    (.of_idle (h.busy busy).1 (h.err_none_of_busy busy) rfl (.inr phase) (h.control.feed activity).2.1 rfl rfl)
    (.deliver kind (by simp [phase]) (read.advance rfl rfl rfl (Nat.le_refl _) read.ipos_le) ok.cursor ok.count)

/-- The end of a `feed` with fewer than 4 bytes of header (R207). -/
theorem inv_stop_awaiting {s : State} (h : Inv s) (kind : s.kind = some .explode) (activity : s.activity = .feed)
    (phase : s.phase = .awaitingHeader) (few : s.input.total < Config.hdrMinAvail) : Inv s.stopForInput := by
  obtain ⟨ok, d⟩ := h.headerDue kind phase
  have busy : s.activity ≠ .idle := by simp [activity]
  refine .of_explode kind (h.spaces.congr (t := s.setNeedsMore true) rfl rfl rfl).deliver
    (.of_idle (h.busy busy).1 (h.err_none_of_busy busy) rfl (.inl phase) (h.control.feed activity).2.1 rfl rfl)
    (.of_due phase ?_ ok.cursor ok.count)
  have base : s.stopForInput.input.base = 0 := by simp [State.consumedBytes, kind, d.base, d.ipos]
  exact ⟨d.ipos, base, d.dsize, d.tables, rfl, d.eos, fun hne => absurd (d.ctype hne).2 (Nat.not_le.2 few), fun _ => few,
    rfl, d.nothing.2⟩

/-- What an IMPLODE engine has built once its stream has started. -/
theorem ImplodeOk.started {s : State} (h : ImplodeOk s) (phase : s.phase ≠ .awaitingHeader) :
    ∃ ct ds, s.hdr = { ctype := some ct, dsize := some ds } ∧ s.tables = implodeTables ct := by
  obtain ⟨ct, ds, hdr, -, tables⟩ := h.header
  exact ⟨ct, ds, hdr, tables phase⟩

theorem ImplodeOk.eos_false {s : State} (h : ImplodeOk s) (phase : s.phase ≠ .done) : s.flags.eosSeen = false := by
  simpa using mt h.eos.1 phase

theorem inv_stop_implode {s : State} (h : Inv s) (kind : s.kind = some .implode) (activity : s.activity = .feed)
    (phase : s.phase = .streaming) : Inv s.stopForInput := by
  have ok := h.implode kind
  have busy : s.activity ≠ .idle := by simp [activity]
  exact .of_implode kind (h.spaces.congr (t := s.setNeedsMore true) rfl rfl rfl).deliver
    (.of_idle (h.busy busy).1 (h.err_none_of_busy busy) rfl (.inr phase) (h.control.feed activity).2.1 rfl rfl)
    (.of_running (.inl phase) (ok.started (by simp [phase])) rfl ok.window ok.ipos_le
      (deliver_base_le (s := s.setNeedsMore true) kind ok.base_le) ok.cursor (ok.eos_false (by simp [phase])))

theorem inv_stop {s : State} (h : Inv s) (activity : s.activity = .feed)
    (short : s.phase = .streaming
      ∨ (s.phase = .awaitingHeader ∧ s.kind = some .explode ∧ s.input.total < Config.hdrMinAvail)) :
    Inv s.stopForInput := by
  rcases short with phase | ⟨phase, kind, few⟩
  · rcases kind_of_busy h (by simp [activity]) with kind | kind
    · exact inv_deliver_streaming h kind activity phase true
    · exact inv_stop_implode h kind activity phase
  · exact inv_stop_awaiting h kind activity phase few

/-- EOS is seen in `Streaming` only, inside a `feed` (R222, R227). -/
theorem streaming_of_eos {s : State} (h : Inv s) (kind : s.kind = some .explode) (activity : s.activity = .feed)
    (eos : s.flags.eosSeen = true) : s.phase = .streaming := by
  rcases (h.control.feed activity).1 with phase | phase
  · have := (h.headerDue kind phase).2.eos
    simp [eos] at this
  · exact phase

/-! ## The finish of either engine -/

theorem inv_startFlushing {s : State} (h : Inv s) (activity : s.activity = .finish) (phase : s.phase = .streaming) :
    Inv (s.setPhase .flushing) := by
  have busy : s.activity ≠ .idle := by simp [activity]
  obtain ⟨-, ended, more, noPending⟩ := h.control.finish activity
  have spaces : SpacesOk (s.setPhase .flushing) := h.spaces.congr rfl rfl rfl
  have control : ControlOk (s.setPhase .flushing) :=
    .of_finish (h.busy busy).1 (h.err_none_of_busy busy) activity (.inr (.inr rfl)) ended more noPending
  rcases kind_of_busy h busy with kind | kind
  · obtain ⟨ok, read⟩ := h.headerRead kind phase
    exact .of_explode kind spaces control
      (.of_read (by simp) (read.advance rfl rfl rfl (Nat.le_refl _) read.ipos_le) ok.cursor ok.count noPending)
  · have ok := h.implode kind
    exact .of_implode kind spaces control
      (.of_running (.inr rfl) (ok.started (by simp [phase])) ok.pending ok.window ok.ipos_le ok.base_le ok.cursor
        (ok.eos_false (by simp [phase])))

theorem inv_endExplode {s : State} (h : Inv s) (kind : s.kind = some .explode) (activity : s.activity = .finish)
    (eos : s.flags.eosSeen = true) (phase : s.phase = .flushing) : Inv (s.setPhase .done).deliver := by
  have busy : s.activity ≠ .idle := by simp [activity]
  have ok := h.explode kind (by simp [phase])
  have read := ok.read (by simp [phase])
  obtain ⟨-, ended, more, -⟩ := h.control.finish activity
  exact .of_explode kind (h.spaces.congr (t := s.setPhase .done) rfl rfl rfl).deliver
    (.of_done (h.busy busy).1 (h.err_none_of_busy busy) rfl rfl eos ended more rfl rfl)
    (.deliver kind (by simp) (read.advance rfl rfl rfl (Nat.le_refl _) read.ipos_le) ok.cursor ok.count)

/-! ## An IMPLODE engine -/

theorem inv_startImplode {s : State} {ct : CType} {ds : DSize} (h : Inv s) (kind : s.kind = some .implode)
    (busy : s.activity ≠ .idle) (phase : s.phase = .awaitingHeader)
    (header : s.hdr = { ctype := some ct, dsize := some ds }) :
    Inv { writeHeader ct ds s with tables := implodeTables ct, phase := .streaming } := by
  have ok := h.implode kind
  exact .of_implode kind (((h.spaces.outAppend _).outAppend _).congr rfl rfl rfl)
    (h.control_busy busy rfl rfl rfl (.inr rfl) rfl id fun _ => id)
    (.of_running (.inl rfl) ⟨ct, ds, header, rfl⟩ ok.pending ok.window ok.ipos_le ok.base_le ok.cursor
      (ok.eos_false (by simp [phase])))

theorem inv_emit {s t : State} {ct : CType} {n : Nat} (h : Inv s) (kind : s.kind = some .implode)
    (busy : s.activity ≠ .idle) (phase : s.phase ≠ .awaitingHeader)
    (frame : t = { s with bc := t.bc, output := t.output, win := t.win, ipos := s.ipos + n }) (emitting : Emitting ct t)
    (there : s.ipos + n ≤ s.input.total) : Inv t := by
  have ok := h.implode kind
  have running : s.phase = .streaming ∨ s.phase = .flushing := (h.busy busy).2.resolve_left phase
  have notDone : s.phase ≠ .done := by rcases running with hp | hp <;> simp [hp]
  obtain ⟨bc, o, w, rfl⟩ : ∃ bc o w, t = { s with bc := bc, output := o, win := w, ipos := s.ipos + n } := ⟨_, _, _, frame⟩
  obtain ⟨spaces, -, cursor, window, base_le⟩ := emitting
  exact .of_implode kind spaces (h.control_busy busy rfl rfl rfl (.inl rfl) rfl id fun _ => id)
    (.of_running running (ok.started phase) ok.pending window there base_le (cursor_of_lt cursor)
      (ok.eos_false notDone))

theorem inv_endImplode {s : State} {o : Output} (h : Inv s) (kind : s.kind = some .implode)
    (activity : s.activity = .finish) (phase : s.phase = .flushing) (all : s.input.total ≤ s.ipos)
    (spaces : SpacesOk { s with output := o }) :
    Inv (s.imploded o).deliver := by
  have ok := h.implode kind
  have busy : s.activity ≠ .idle := by simp [activity]
  obtain ⟨ct, ds, hdr, tables⟩ := ok.started (by simp [phase])
  refine .of_implode kind (spaces.congr (t := s.imploded o) rfl rfl rfl).deliver
    (.of_done (h.busy busy).1 (h.err_none_of_busy busy) rfl rfl rfl (h.control.finish activity).2.1 rfl rfl rfl) ?_
  exact ⟨by simp, ⟨ct, ds, hdr, by simp, fun _ => tables⟩, rfl, ok.window, ok.ipos_le,
    deliver_base_le (s := s.imploded o) kind ok.base_le, rfl, by simp, fun _ => ⟨rfl, Nat.le_antisymm ok.ipos_le all⟩⟩

/-! ## O55 -/

theorem Move.inv {s t : State} (h : Inv s) (m : Move s t) : Inv t := by
  cases m with
  | queues q r => exact inv_queue h q r
  | create _ legal q r => exact inv_queue (inv_created s _ _ _ legal) q r
  | beginFeed idle live alive ended q chunk => exact inv_beginFeed (inv_queue h q s.replies) idle live alive ended chunk
  | beginFinish idle live alive ended q => exact inv_beginFinish (inv_queue h q s.replies) idle live alive ended
  | headerByte0 due ct => exact inv_headerByte0 h due ct
  | headerByte1 due ds => exact inv_headerByte1 h due ds
  | literal due there b => exact inv_literal h due there b
  | length due long short from_ipos there => exact inv_length h due long short from_ipos there
  | endOfStream due there => exact inv_endOfStream h due there
  | copy due from_pos there spaces winLen count => exact inv_copy h due from_pos there spaces winLen count
  | fail kind e => exact inv_raise e kind
  | stop activity short => exact inv_stop h activity short
  | stopAfterEos kind activity eos => exact inv_deliver_streaming h kind activity (streaming_of_eos h kind activity eos) false
  | startFlushing activity phase => exact inv_startFlushing h activity phase
  | endExplode kind activity eos phase => exact inv_endExplode h kind activity eos phase
  | startImplode kind busy phase header => exact inv_startImplode h kind busy phase header
  | emit kind busy phase frame emitting there => exact inv_emit h kind busy phase frame emitting there
  | endImplode kind activity phase all spaces => exact inv_endImplode h kind activity phase all spaces

/-- Settles O55: every step is a move, and every move keeps the invariant. -/
theorem stepKeepsInvariant : Obligations.StepKeepsInvariant := by
  intro s t h hs
  exact (step_move h hs).inv h

end Sys2Proof.Machine

/-! PROOFS. O42, O43, O44 and O45: what a step leaves as it was. -/

namespace Sys2Proof.Machine

/-! ## Failed is sticky (R297, R313) -/

/-- A failed engine has no item due. -/
theorem place_of_failed {s : State} (h : s.phase = .failed) : s.place = none := by
  simp [State.place, h]

/-- A failed engine answers a request with its error again (R297). -/
theorem idleStep_failed {s t : State} (keeps : s.keepsInstance) (ha : s.activity = .idle) (hph : s.phase = .failed)
    (h : idleStep s = .next t) : t.phase = .failed ∧ t.err = s.err := by
  obtain ⟨-, rfl⟩ | ⟨r, rest, hr, h⟩ := idleStep_next h
  · exact ⟨hph, rfl⟩
  · rcases keeps ha r rest hr with rfl | ⟨chunk, rfl⟩
    · obtain ⟨-, ⟨-, rfl⟩ | ⟨hne, -⟩ | ⟨hne, -⟩⟩ := acceptFinish_next h
      exacts [⟨hph, rfl⟩, absurd hph hne, absurd hph hne]
    · obtain ⟨-, ⟨-, rfl⟩ | ⟨hne, -⟩ | ⟨hne, -⟩⟩ := acceptFeed_next h
      exacts [⟨hph, rfl⟩, absurd hph hne, absurd hph hne]

/-- Inside a `feed` a failed engine can only return, its error kept. -/
theorem feedStep_failed {s t : State} (hph : s.phase = .failed) (h : feedStep s = .next t) :
    t.phase = .failed ∧ t.err = s.err := by
  unfold feedStep at h
  split at h
  · cases h
  · rw [explodeFeed, place_of_failed hph] at h
    simp only [explodeEndFeed, hph] at h
    split at h <;> cases h
    exact ⟨hph, rfl⟩
  · rw [implodeFeed, hph] at h
    cases h

/-- Inside a `finish` a failed engine has no step (R230, R260). -/
theorem finishStep_failed {s t : State} (hph : s.phase = .failed) : finishStep s ≠ .next t := by
  unfold finishStep
  split
  · simp
  · simp [explodeFinish, hph]
  · simp [implodeFinish, hph]

/-- Settles O42, by the activity of the failed engine. -/
theorem failedIsSticky : Obligations.FailedIsSticky := by
  intro s t keeps hph hs
  have h := (step_next hs).1
  unfold engineStep at h
  split at h
  · exact idleStep_failed keeps ‹_› hph h
  · exact feedStep_failed hph h
  · exact absurd h (finishStep_failed hph)

/-! ## The header and the tables (R29, R38) -/

/-- Settles O43: no move past the header writes the header, the tables or the phase `AwaitingHeader`. -/
theorem headerAndTablesFixed : Obligations.HeaderAndTablesFixed := by
  intro s t h keeps hs hlive hpast
  cases step_move h hs with
  | queues => exact ⟨rfl, rfl, hpast⟩
  | create replaced => exact absurd keeps replaced
  | beginFeed => exact ⟨rfl, rfl, hpast⟩
  | beginFinish => exact ⟨rfl, rfl, hpast⟩
  | headerByte0 due => exact absurd due.phase hpast
  | headerByte1 due => exact absurd due.phase hpast
  | literal => exact ⟨rfl, rfl, hpast⟩
  | length => exact ⟨rfl, rfl, hpast⟩
  | endOfStream => exact ⟨rfl, rfl, hpast⟩
  | copy => exact ⟨rfl, rfl, hpast⟩
  | fail => exact absurd rfl hlive
  | stop => exact ⟨rfl, rfl, hpast⟩
  | stopAfterEos => exact ⟨rfl, rfl, hpast⟩
  | startFlushing => exact ⟨rfl, rfl, by simp⟩
  | endExplode => exact ⟨rfl, rfl, by simp⟩
  | startImplode _ _ phase => exact absurd phase hpast
  | emit _ _ _ frame => rw [frame]; exact ⟨rfl, rfl, hpast⟩
  | endImplode => exact ⟨rfl, rfl, by simp⟩

/-! ## Positions, window and input (R24, R25, R36, R190) -/

/-- From `s` to `t` nothing of the stream goes backwards or is rewritten. -/
structure Grows (s t : State) : Prop where
  kind : t.kind = s.kind
  ipos : s.ipos ≤ t.ipos
  total : s.input.total ≤ t.input.total
  base : s.input.base ≤ t.input.base
  winLen : s.win.len ≤ t.win.len
  window : ∀ a, a < s.win.len → t.win.mem.read a = s.win.mem.read a
  input : ∀ a, t.input.base ≤ a → a < s.input.total → t.input.mem.read a = s.input.mem.read a
  eos : s.flags.eosSeen = true → t.flags.eosSeen = true

/-- With `IN` unchanged. -/
theorem Grows.of_input {s t : State} (kind : t.kind = s.kind) (ipos : s.ipos ≤ t.ipos) (input : t.input = s.input)
    (winLen : s.win.len ≤ t.win.len) (window : ∀ a, a < s.win.len → t.win.mem.read a = s.win.mem.read a)
    (eos : s.flags.eosSeen = true → t.flags.eosSeen = true) : Grows s t :=
  ⟨kind, ipos, by rw [input], by rw [input], winLen, window, fun _ _ _ => by rw [input], eos⟩

/-- With `IN` and the window unchanged. -/
theorem Grows.of_stream {s t : State} (kind : t.kind = s.kind) (ipos : s.ipos ≤ t.ipos) (input : t.input = s.input)
    (win : t.win = s.win) (eos : s.flags.eosSeen = true → t.flags.eosSeen = true) : Grows s t :=
  .of_input kind ipos input (by rw [win]) (fun _ _ => by rw [win]) eos

/-- The end of a transaction drops consumed input, and changes nothing else of the stream (R25). -/
theorem Grows.deliver {s t : State} (h : Grows s t) (spaces : SpacesOk t) : Grows s t.deliver := by
  obtain ⟨hbase, -, -, hread⟩ := Input.dropTo_spec t.input t.consumedBytes spaces.base_le spaces.input
  exact ⟨h.kind, h.ipos, h.total, h.base.trans hbase, h.winLen, h.window,
    fun a ha hlt => (hread a ha).trans (h.input a (hbase.trans ha) hlt), h.eos⟩

theorem Grows.beginFeed (s : State) (q : List Request) (chunk : List Byte) :
    Grows s (State.beginFeed { s with requests := q } chunk) := by
  obtain ⟨hbase, htotal, -, hold⟩ := Input.receive_spec s.input chunk
  exact ⟨rfl, Nat.le_refl _, by simp [htotal], by simp [hbase], Nat.le_refl _, fun _ _ => rfl,
    fun a _ hlt => hold a (.inl hlt), id⟩

theorem Grows.literal {s : State} {size : Nat} (b : Byte) : Grows s { s.emitByte b with ipos := s.ipos + size } :=
  .of_input rfl (Nat.le_add_right _ _) rfl (Nat.le_succ _)
    (fun a ha => (emitByte_win_read b a).trans (if_neg (Nat.ne_of_lt ha))) id

/-- What is emitted moves to the end of the window, in step with `IPOS` (R194). -/
theorem Grows.emit {ct : CType} {s t : State} {n : Nat} (h : Inv s) (kind : s.kind = some .implode)
    (frame : t = { s with bc := t.bc, output := t.output, win := t.win, ipos := s.ipos + n }) (emitting : Emitting ct t)
    (kept : ∀ a, a < s.win.len → t.win.mem.read a = s.win.mem.read a) : Grows s t := by
  have hipos : t.ipos = s.ipos + n := by rw [frame]
  have hlen : t.win.len = s.win.len + n := by rw [emitting.window, hipos, (h.implode kind).window]
  exact .of_input (by rw [frame]) (by omega) (by rw [frame]) (by omega) kept (by rw [frame]; exact id)

/-- A match part already read starts at or after `IPOS` (R24, R120). -/
theorem ipos_le_pending {s : State} {m : PendingMatch} {ds : DSize} (h : Inv s) (due : DistanceDue m ds s) :
    s.ipos ≤ m.pos := by
  obtain ⟨-, -, -, -, -, hle, -⟩ := (h.explode due.kind (by simp [due.phase])).pending m due.pending
  exact hle

theorem ipos_zero {s : State} {first : Option CType} (h : Inv s) (due : HeaderByteDue first s) : s.ipos = 0 :=
  ((h.explode due.kind (by simp [due.phase])).due due.phase).ipos

theorem Move.grows {s t : State} (h : Inv s) (keeps : s.keepsInstance) (m : Move s t) (hlive : t.phase ≠ .failed) :
    Grows s t := by
  cases m with
  | queues => exact .of_stream rfl (Nat.le_refl _) rfl rfl id
  | create replaced => exact absurd keeps replaced
  | beginFeed _ _ _ _ q chunk => exact .beginFeed s q chunk
  | beginFinish => exact .of_stream rfl (Nat.le_refl _) rfl rfl id
  | headerByte0 => exact .of_stream rfl (Nat.le_refl _) rfl rfl id
  | headerByte1 due => exact .of_stream rfl (by simp [ipos_zero h due]) rfl rfl id
  | literal _ _ b => exact .literal b
  | length => exact .of_stream rfl (Nat.le_refl _) rfl rfl id
  | endOfStream => exact .of_stream rfl (Nat.le_add_right _ _) rfl rfl fun _ => rfl
  | copy due from_pos _ _ winLen _ kept =>
    exact .of_input rfl ((ipos_le_pending h due).trans from_pos) rfl (by simp [winLen]) kept id
  | fail => exact absurd rfl hlive
  | stop =>
    exact .deliver (.of_stream rfl (Nat.le_refl _) rfl rfl id) (h.spaces.congr (t := s.setNeedsMore true) rfl rfl rfl)
  | stopAfterEos =>
    exact .deliver (.of_stream rfl (Nat.le_refl _) rfl rfl id) (h.spaces.congr (t := s.setNeedsMore false) rfl rfl rfl)
  | startFlushing => exact .of_stream rfl (Nat.le_refl _) rfl rfl id
  | endExplode =>
    exact .deliver (.of_stream rfl (Nat.le_refl _) rfl rfl id) (h.spaces.congr (t := s.setPhase .done) rfl rfl rfl)
  | startImplode => exact .of_stream rfl (Nat.le_refl _) rfl rfl id
  | emit kind _ _ frame emitting _ kept => exact .emit h kind frame emitting kept
  | endImplode _ _ _ _ spaces =>
    exact .deliver (.of_stream rfl (Nat.le_refl _) rfl rfl fun _ => rfl) (spaces.congr rfl rfl rfl)

/-- Settles O44: no move makes the stream go backwards. -/
theorem streamOnlyGrows : Obligations.StreamOnlyGrows := by
  intro s t h keeps hs hlive
  obtain ⟨kind, ipos, total, base, winLen, window, input, eos⟩ := (step_move h hs).grows h keeps hlive
  exact ⟨kind, ipos, total, base, winLen, window, input, eos⟩

/-! ## An item that is not wholly there (R228, R229) -/

/-- A streaming EXPLODE engine has consumed the whole bytes before `IPOS`; only those are dropped (R25). -/
theorem base_after_stop {s : State} (h : Inv s) (hk : s.kind = some .explode) (hph : s.phase = .streaming) :
    8 * s.stopForInput.input.base ≤ s.ipos := by
  have hbase := ((h.explode hk (by simp [hph])).read (by simp [hph])).base_le
  simp only [State.stopForInput_input, Input.dropTo_base, State.consumedBytes, hk]
  omega

/-- Settles O45: the step is `stopForInput`, and what it drops lies before `IPOS`. -/
theorem needMoreIsAtomic : Obligations.NeedMoreIsAtomic := by
  intro s p h hl hp hf
  obtain ⟨hk, -, -⟩ := place_some hp
  have hph := streaming_of_needMore h hp hf
  have hstep : step s = .next s.stopForInput := by rw [step_unbounded hl, engine_place hp, hf]; rfl
  have hbase := base_after_stop h hk hph
  obtain ⟨-, -, -, hread⟩ := Input.dropTo_spec s.input s.consumedBytes h.spaces.base_le h.spaces.input
  refine ⟨_, hstep, rfl, hbase, fun a ha => hread a ?_⟩
  rw [State.stopForInput_input] at hbase
  omega

end Sys2Proof.Machine

/-! PROOFS. O1, O2, O6, O11, O40, O41 and O54: new engines, the items HDR1 and LEN, the beginning of a transaction, and
errors. -/

namespace Sys2Proof.Machine

/-! ## New engines (R39, R291, R292) -/

/-- A new engine has R39's values. -/
theorem created_fresh (s : State) (k : Option Kind) (ct : Option CType) (ds : Option DSize) :
    FreshInstance (s.created k ct ds) := ⟨rfl, rfl, rfl, rfl, rfl, rfl, rfl, rfl, rfl, rfl⟩

/-- A record returned is no register of the engine. -/
theorem FreshInstance.reply {s : State} (h : FreshInstance s) (r : Reply) : FreshInstance (s.reply r) :=
  ⟨h.phase, h.err, h.flags, h.cursor, h.ipos, h.input, h.output, h.window, h.codeTable, h.asciiTables⟩

theorem fitsWidth_zero (width : Option Nat) : fitsWidth width 0 = true := by
  cases width <;> simp [fitsWidth]

/-- An engine that holds nothing is within any limits. -/
theorem fits_of_fresh {t : State} (h : FreshInstance t) (limits : Limits) : t.fits limits = true := by
  have hstored : t.windowStored = 0 := by
    unfold State.windowStored
    split <;> simp [h.window]
  have hopos : t.opos = 0 := by simp [State.opos, h.output, h.cursor]
  have hcounters : ∀ n ∈ t.counters, n = 0 := by
    intro n hn
    by_cases hk : t.kind = some .implode <;> simp [State.counters, h.ipos, h.input, h.window, hopos, hk] at hn <;> omega
  have hall : t.counters.all (fitsWidth limits.posWidth) = true :=
    List.all_eq_true.2 fun n hn => by rw [hcounters n hn]; exact fitsWidth_zero _
  simp [State.fits, hall, hstored, h.input, h.output, fitsCapacity_zero]

/-- A creation whose record has no bytes is never refused for the limits (R10). -/
theorem step_create {s : State} {r : Request} {rest : List Request} {k : Option Kind} {ct : Option CType} {ds : Option DSize}
    {e : Option ErrorKind} (ha : s.activity = .idle) (hr : s.requests = r :: rest)
    (hc : accept r { s with requests := rest }
      = .next ((State.created { s with requests := rest } k ct ds).reply { producedOutput := [], error := e })) :
    step s = .next ((State.created { s with requests := rest } k ct ds).reply { producedOutput := [], error := e }) := by
  rw [step_eq_limited, idle_req ha hr, hc]
  refine if_pos ⟨fits_of_fresh ((created_fresh _ _ _ _).reply _) _, ?_⟩
  simp [State.created, fitsCapacity_zero]

/-- The type of the arguments is checked first (R292). -/
theorem creationArguments_badType {ct : Byte} (h : ct ≠ 0 ∧ ct ≠ 1) (ds : Byte) :
    creationArguments ct ds = .error .invalidCompressionType := by
  rw [creationArguments, ctypeOf_none h]

theorem creationArguments_badClass {ct ds : Byte} (hct : ct = 0 ∨ ct = 1) (h : ds ≠ 4 ∧ ds ≠ 5 ∧ ds ≠ 6) :
    creationArguments ct ds = .error .invalidDictionarySize := by
  obtain ⟨c, hc, -⟩ := ctypeOf_some hct
  rw [creationArguments, hc, dsizeOf_none h]

theorem creationArguments_code (c : CType) (d : DSize) : creationArguments (ctypeCode c) (dsizeCode d) = .ok (c, d) := by
  cases c <;> cases d <;> rfl

theorem acceptCreateImplode_error {ct ds : Byte} {e : ErrorKind} (h : creationArguments ct ds = .error e) (s : State) :
    acceptCreateImplode ct ds s = (s.created none none none).reply { producedOutput := [], error := some e } := by
  rw [acceptCreateImplode, h]

theorem acceptCreateImplode_ok {ct ds : Byte} {c : CType} {d : DSize} (h : creationArguments ct ds = .ok (c, d)) (s : State) :
    acceptCreateImplode ct ds s
      = (s.created (some .implode) (some c) (some d)).reply { producedOutput := [], error := none } := by
  rw [acceptCreateImplode, h]

/-- Illegal arguments: no engine, and the error in the record (R292). -/
theorem step_createImplode_error {s : State} {rest : List Request} {ct ds : Byte} {e : ErrorKind} (ha : s.activity = .idle)
    (hr : s.requests = .createImplode ct ds :: rest) (he : creationArguments ct ds = .error e) :
    step s = .next ((State.created { s with requests := rest } none none none).reply
      { producedOutput := [], error := some e }) :=
  step_create ha hr (congrArg Host.Outcome.next (acceptCreateImplode_error he _))

/-- Legal arguments: an IMPLODE engine with them as its header (R292). -/
theorem step_createImplode_ok {s : State} {rest : List Request} {c : CType} {d : DSize} (ha : s.activity = .idle)
    (hr : s.requests = .createImplode (ctypeCode c) (dsizeCode d) :: rest) :
    step s = .next ((State.created { s with requests := rest } (some .implode) (some c) (some d)).reply
      { producedOutput := [], error := none }) :=
  step_create ha hr (congrArg Host.Outcome.next (acceptCreateImplode_ok (creationArguments_code c d) _))

/-- Settles O1: reset and both creations, by R39's values of a created state. -/
theorem createdInstanceHoldsResetValues : Obligations.CreatedInstanceHoldsResetValues := by
  refine ⟨⟨created_fresh State.reset (some .explode) none none, rfl, rfl⟩, ?_, ?_⟩
  · intro s rest ha hr
    exact ⟨_, step_create ha hr rfl, (created_fresh _ _ _ _).reply _, rfl, rfl, rfl, rfl, rfl, rfl⟩
  · intro s rest ct ds ha hr
    exact ⟨_, step_createImplode_ok ha hr, (created_fresh _ _ _ _).reply _, rfl, rfl, rfl, rfl, rfl, rfl, rfl, rfl⟩

/-- Settles O2: the three outcomes of `creationArguments`. -/
theorem illegalCreationLeavesNoInstance : Obligations.IllegalCreationLeavesNoInstance := by
  intro s rest ct ds ha hr
  refine ⟨fun hct => ?_, fun hct hds => ?_, fun hct hds => ?_⟩
  · exact ⟨_, step_createImplode_error ha hr (creationArguments_badType hct ds), rfl, rfl, rfl, rfl, rfl⟩
  · exact ⟨_, step_createImplode_error ha hr (creationArguments_badClass hct hds), rfl, rfl, rfl, rfl, rfl⟩
  · obtain ⟨c, -, rfl⟩ := ctypeOf_some hct
    obtain ⟨d, -, rfl⟩ := dsizeOf_some hds
    exact ⟨_, c, d, step_createImplode_ok ha hr, rfl, rfl, rfl, rfl, (created_fresh _ _ _ _).reply _,
      rfl, rfl, rfl, rfl, rfl, rfl⟩

/-- Settles O54: the reset state is a created EXPLODE engine. -/
theorem resetMeetsInvariant : Obligations.ResetMeetsInvariant :=
  inv_created State.reset (some .explode) none none (.inr (.inl ⟨rfl, rfl, rfl⟩))

/-! ## Items (R96, R208) -/

/-- Settles O6: every HDR1 row is `acceptHdr1` of its class, and the tables built are the generator's. -/
theorem headerByte1Result : Obligations.HeaderByte1Result := by
  intro i ct ds s hi hd
  rw [exec_eq_execItem, hi, ← explodeTables_eq]
  exact acceptHdr1_due hd ds

/-- Settles O11: every LEN row but EOS's bits is `lengthPart` of its bucket. -/
theorem lengthPartResult : Obligations.LengthPartResult := by
  intro i bucket extra ct s hi hne hd
  rw [exec_eq_execItem, hi, execItem, if_neg hne]
  exact lengthPart_due hd bucket extra

/-! ## Transactions and errors -/

/-- `IN_BASE` stays, `IN_TOTAL` grows by the chunk's length (R25). -/
theorem Input.receive_eq (i : Input) (chunk : List Byte) :
    i.receive chunk = { i with mem := (i.receive chunk).mem, total := i.total + chunk.length } := by
  obtain ⟨hbase, htotal, -, -⟩ := Input.receive_spec i chunk
  rw [← hbase, ← htotal]

/-- What a `feed` leads to, as a function of the input it leaves. -/
def State.feeding (s : State) (rest : List Request) (i : Input) : State :=
  { s with requests := rest, flags := { s.flags with needsMore := false }, input := i, activity := .feed }

/-- Settles O40: both transactions begin with their state update; the bytes received are those of `receive`. -/
theorem transactionsBegin : Obligations.TransactionsBegin := by
  intro s rest hl hk ha hph he
  refine ⟨fun chunk hne hr => ?_, fun hr => ?_⟩
  · obtain ⟨-, -, hnew, hold⟩ := Input.receive_spec s.input chunk
    have hstep : step s = .next (State.beginFeed { s with requests := rest } chunk) := by
      rw [step_unbounded hl, idle_req ha hr]
      exact accept_feed (s := { s with requests := rest }) hk hph he hne
    exact ⟨_, hstep, congrArg (State.feeding s rest) (Input.receive_eq s.input chunk), hnew, hold⟩
  · rw [step_unbounded hl, idle_req ha hr]
    exact accept_finish (s := { s with requests := rest }) hk hph he

/-- Settles O41: the fields `raise` writes, and their codes. -/
theorem raiseResult : Obligations.RaiseResult := by
  intro e s
  refine ⟨raise_phase s e, raise_err s e, raise_needsMore s e, raise_outMem s e, raise_activity s e, raise_replies s e,
    rfl, ?_⟩
  rw [raise_err]
  cases e <;> rfl

end Sys2Proof.Machine

/-! PROOFS. O19 to O22: decoder and encoder are inverse, and every long enough bit sequence is an item. -/

namespace Sys2Proof

open Machine

/-! ## Fields -/

/-- Bits begin with a field of `n` bits, or are too few for one. -/
theorem short_or_field (n : Nat) (bs : Bits) : bs.length < n ∨ ∃ v rest, v < 2 ^ n ∧ bs = natBits n v ++ rest := by
  rcases Nat.lt_or_ge bs.length n with hshort | hthere
  · exact .inl hshort
  · have ht : takeBits n bs = some (bitsValue (bs.take n), bs.drop n) := if_pos hthere
    exact .inr ⟨_, _, takeBits_lt ht, (takeBits_natBits ht).symm⟩

/-- Bits whose peeked bits are those of a code begin with it, or are too few for it (R123). -/
theorem short_or_code {m n v : Nat} {bs : Bits} (h : m ≤ n) (hp : peekBits n bs % 2 ^ m = v) :
    bs.length < m ∨ ∃ tail, bs = natBits m v ++ tail := by
  rcases Nat.lt_or_ge bs.length m with hshort | hthere
  · exact .inl hshort
  · exact .inr ⟨_, prefix_of_peekBits h hthere hp⟩

theorem takeBits_field {n v : Nat} (h : v < 2 ^ n) (rest : Bits) : takeBits n (natBits n v ++ rest) = some (v, rest) := by
  rw [takeBits_append, Nat.mod_eq_of_lt h]

theorem takeBits_none {n : Nat} {bs : Bits} (h : bs.length < n) : takeBits n bs = none := if_neg (by omega)

theorem skipBits_there {n : Nat} {bs : Bits} (h : n ≤ bs.length) : skipBits n bs = some (bs.drop n) := if_pos h

theorem skipBits_none {n : Nat} {bs : Bits} (h : bs.length < n) : skipBits n bs = none := if_neg (by omega)

/-! ## Header bytes (R91, R92) -/

theorem ctypeCode_of_ctypeOf {b : Byte} {c : CType} (h : ctypeOf b = some c) : ctypeCode c = b := by
  by_cases hb : b = 0 ∨ b = 1
  · obtain ⟨d, hd, hcode⟩ := ctypeOf_some hb
    obtain rfl : d = c := Option.some.inj (hd.symm.trans h)
    exact hcode
  · rw [ctypeOf_none (by tauto)] at h
    cases h

theorem dsizeCode_of_dsizeOf {b : Byte} {d : DSize} (h : dsizeOf b = some d) : dsizeCode d = b := by
  by_cases hb : b = 4 ∨ b = 5 ∨ b = 6
  · obtain ⟨e, he, hcode⟩ := dsizeOf_some hb
    obtain rfl : e = d := Option.some.inj (he.symm.trans h)
    exact hcode
  · rw [dsizeOf_none (by tauto)] at h
    cases h

theorem decodeHdr0_code (c : CType) (rest : Bits) :
    decodeHdr0 (natBits 8 (ctypeCode c).toNat ++ rest) = .item (.hdr0 c) rest := by
  rw [decodeHdr0, takeBits_field (ctypeCode c).isLt]
  cases c <;> rfl

theorem decodeHdr1_code (d : DSize) (rest : Bits) :
    decodeHdr1 (natBits 8 (dsizeCode d).toNat ++ rest) = .item (.hdr1 d) rest := by
  rw [decodeHdr1, takeBits_field (dsizeCode d).isLt]
  cases d <;> rfl

/-! ## The length alphabet (R96, R97, R154) -/

theorem len_rom_fits {i : Nat} (hi : i < 16) : romAt lenBits i ≤ 7 ∧ romAt lenCode i < 2 ^ romAt lenBits i :=
  len_rom_small ⟨i, hi⟩

theorem exLenBits_le {i : Nat} (hi : i < 16) : romAt exLenBits i ≤ 8 := by
  have h : ∀ i : Fin 16, romAt exLenBits i ≤ 8 := by decide
  exact h ⟨i, hi⟩

/-- Each bucket's lengths lie below those of the next ones (R100, R143). -/
theorem lenBase_add_le {i j : Nat} (hij : i < j) (hj : j < 16) : lenBase i + 2 ^ romAt exLenBits i ≤ lenBase j := by
  have h : ∀ i j : Fin 16, i < j → lenBase i + 2 ^ romAt exLenBits i ≤ lenBase j := by decide
  exact h ⟨i, by omega⟩ ⟨j, hj⟩ hij

/-- A length belongs to one bucket and one extra value (R100). -/
theorem matchLength_injective {i j e f : Nat} (hi : i < 16) (hj : j < 16) (he : e < 2 ^ romAt exLenBits i)
    (hf : f < 2 ^ romAt exLenBits j) (h : matchLength i e = matchLength j f) : i = j ∧ e = f := by
  simp only [matchLength] at h
  rcases Nat.lt_trichotomy i j with hlt | rfl | hgt
  · have := lenBase_add_le hlt hj
    omega
  · exact ⟨rfl, by omega⟩
  · have := lenBase_add_le hgt hi
    omega

/-- The last symbol is EOS (R97). -/
theorem lengthItem_eos (rest : Bits) : lengthItem 15 255 rest = .item .eos rest :=
  (lengthItem_eq (by decide) (by decide) rest).trans (if_pos (by decide))

theorem lengthItem_len {i e : Nat} (h : (Item.len i e).inRange) (rest : Bits) :
    lengthItem i e rest = .item (.len i e) rest := by
  obtain ⟨hi, he, hne⟩ := h
  rw [lengthItem_eq hi he, if_neg]
  intro hs
  have h15 : lenBase 15 = 262 := by decide
  exact hne (matchLength_injective hi (by decide) he (by decide) (by simp only [matchLength]; omega))

/-- On a length code the lookup table selects its bucket (R156). -/
theorem lenLut_code {i : Nat} (hi : i < 16) (tail : Bits) :
    lenLut[peekBits 8 (natBits (romAt lenBits i) (romAt lenCode i) ++ tail)]? = some (BitVec.ofNat 4 i)
      ∧ (BitVec.ofNat 4 i).toNat = i := by
  obtain ⟨hbits, hcode⟩ := len_rom_fits hi
  obtain ⟨j, -, hlut, hnat, -, hunique⟩ := lenLut_select (natBits (romAt lenBits i) (romAt lenCode i) ++ tail)
  obtain rfl : i = j := hunique i hi (by rw [peekBits_prefix (by omega), Nat.mod_eq_of_lt hcode])
  exact ⟨hlut, hnat⟩

theorem decodeLength_code (ct : CType) {i e : Nat} (hi : i < 16) (he : e < 2 ^ romAt exLenBits i) (rest : Bits) :
    decodeLength (explodeTables ct) (natBits (romAt lenBits i) (romAt lenCode i) ++ (natBits (romAt exLenBits i) e ++ rest))
      = lengthItem i e rest := by
  obtain ⟨hlut, hnat⟩ := lenLut_code hi (natBits (romAt exLenBits i) e ++ rest)
  simp only [decodeLength, explodeTables, hlut, hnat, skipBits_append, takeBits_field he]

/-- Bits that may follow a discriminator 1: a code and its extra bits, or too few for them. -/
theorem decodeLength_cases (ct : CType) (bs : Bits) :
    (∃ i e rest, i < 16 ∧ e < 2 ^ romAt exLenBits i
        ∧ bs = natBits (romAt lenBits i) (romAt lenCode i) ++ (natBits (romAt exLenBits i) e ++ rest))
      ∨ (bs.length < 15 ∧ decodeLength (explodeTables ct) bs = .needMore) := by
  obtain ⟨i, hi, hlut, hnat, hcode, -⟩ := lenLut_select bs
  obtain ⟨hbits, -⟩ := len_rom_fits hi
  have hextra := exLenBits_le hi
  obtain hshort | ⟨tail, rfl⟩ := short_or_code (by omega) hcode
  · exact .inr ⟨by omega, by simp only [decodeLength, explodeTables, hlut, hnat, skipBits_none hshort]⟩
  · obtain hshort | ⟨e, rest, he, rfl⟩ := short_or_field (romAt exLenBits i) tail
    · refine .inr ⟨by rw [List.length_append, natBits_length]; omega, ?_⟩
      simp only [decodeLength, explodeTables, hlut, hnat, skipBits_append, takeBits_none hshort]
    · exact .inl ⟨i, e, rest, hi, he, rfl⟩

/-! ## The distance alphabet (R98, R155) -/

theorem widthBits_le (w : DistWidth) : widthBits w ≤ 6 := by cases w <;> decide

/-- On a distance code the lookup table selects its index (R157). -/
theorem distLut_code {c : Nat} (hc : c < 64) (tail : Bits) :
    distLut[peekBits 8 (natBits (romAt distBits c) (romAt distCode c) ++ tail)]? = some (BitVec.ofNat 6 c)
      ∧ (BitVec.ofNat 6 c).toNat = c := by
  obtain ⟨hbits, hcode⟩ := dist_rom_fits ⟨c, hc⟩
  obtain ⟨j, -, hlut, hnat, -, hunique⟩ := distLut_select (natBits (romAt distBits c) (romAt distCode c) ++ tail)
  obtain rfl : c = j := hunique c hc (by rw [peekBits_prefix hbits, Nat.mod_eq_of_lt hcode])
  exact ⟨hlut, hnat⟩

theorem decodeDistance_code (ct : CType) {c : Nat} (hc : c < 64) (low : DistLow) (rest : Bits) :
    decodeDistance (explodeTables ct) (lowWidth low)
        (natBits (romAt distBits c) (romAt distCode c) ++ (natBits (widthBits (lowWidth low)) (lowValue low) ++ rest))
      = .item (.dist c low) rest := by
  obtain ⟨hlut, hnat⟩ := distLut_code hc (natBits (widthBits (lowWidth low)) (lowValue low) ++ rest)
  simp only [decodeDistance, explodeTables, hlut, hnat, skipBits_append, takeBits_field (lowValue_lt low), lowOf_lowValue]

/-- Bits that may stand at a distance: a code and its low bits, or too few for them. -/
theorem decodeDistance_cases (ct : CType) (w : DistWidth) (bs : Bits) :
    (∃ c low rest, c < 64 ∧ lowWidth low = w
        ∧ bs = natBits (romAt distBits c) (romAt distCode c) ++ (natBits (widthBits w) (lowValue low) ++ rest))
      ∨ (bs.length < 14 ∧ decodeDistance (explodeTables ct) w bs = .needMore) := by
  obtain ⟨c, hc, hlut, hnat, hcode, -⟩ := distLut_select bs
  have hbits := (dist_rom_fits ⟨c, hc⟩).1
  have hwidth := widthBits_le w
  dsimp only at hbits
  obtain hshort | ⟨tail, rfl⟩ := short_or_code hbits hcode
  · exact .inr ⟨by omega, by simp only [decodeDistance, explodeTables, hlut, hnat, skipBits_none hshort]⟩
  · obtain hshort | ⟨v, rest, hv, rfl⟩ := short_or_field (widthBits w) tail
    · refine .inr ⟨by rw [List.length_append, natBits_length]; omega, ?_⟩
      simp only [decodeDistance, explodeTables, hlut, hnat, skipBits_append, takeBits_none hshort]
    · exact .inl ⟨c, lowOf w v, rest, hc, lowWidth_lowOf w v, by rw [lowValue_lowOf, Nat.mod_eq_of_lt hv]⟩

/-! ## The ASCII alphabet (R95, R182) -/

/-- A selected slot read: the code bits before its table's index are skipped, and the slot ends the literal. -/
def readSlot (skip : Nat) (slot : Option Byte) (bs : Bits) : LiteralRead :=
  match skipBits skip bs with
  | none => .needMore
  | some tail => finishLiteral asciiTables slot tail

theorem readSlot_zero (slot : Option Byte) (bs : Bits) : readSlot 0 slot bs = finishLiteral asciiTables slot bs := by
  simp [readSlot, skipBits]

theorem secondaryLiteral_eq (table : List (Option Byte)) (skip width : Nat) (bs : Bits) :
    secondaryLiteral asciiTables table skip width bs
      = readSlot skip (table.getD (peekBits (skip + width) bs / 2 ^ skip) none) bs := by
  rw [← peekBits_drop]
  rcases Nat.lt_or_ge bs.length skip with hshort | hthere
  · simp only [secondaryLiteral, readSlot, skipBits_none hshort]
  · simp only [secondaryLiteral, readSlot, skipBits_there hthere]

/-- The table of 8-bit indexes after 8 code bits depends on 5 of them, so 13 peeked bits decide (R180). -/
theorem t2eb4_peek (bs : Bits) :
    asciiTables.t2eb4.getD (peekBits 16 bs / 256) none = asciiTables.t2eb4.getD (peekBits 13 bs / 256) none := by
  have hlt := peekBits_lt 16 bs
  have hmod := peekBits_mod (m := 13) (n := 16) (by decide) bs
  have := t2eb4_period ⟨peekBits 16 bs / 256, by omega⟩
  rw [this]
  congr 1
  simp only
  omega

/-- A literal is read from the slot that 13 peeked bits select. -/
theorem decodeAsciiLiteral_eq (bs : Bits) : decodeAsciiLiteral asciiTables bs
    = readSlot (asciiSelect (peekBits 13 bs)).1 (asciiSelect (peekBits 13 bs)).2 bs := by
  have h8 : peekBits 13 bs % 256 = peekBits 8 bs := peekBits_mod (m := 8) (n := 13) (by decide) bs
  have h12 : peekBits 13 bs % 4096 = peekBits 12 bs := peekBits_mod (m := 12) (n := 13) (by decide) bs
  have h64 : peekBits 13 bs % 64 = peekBits 8 bs % 0x40 := by omega
  have h16 : peekBits 13 bs / 16 % 256 = peekBits 12 bs / 16 := by omega
  simp only [decodeAsciiLiteral, asciiSelect, secondaryLiteral_eq, h8, h64, h16]
  by_cases hp : peekBits 8 bs = 0
  · rw [if_pos hp, if_pos hp]
    exact congrArg (readSlot 8 · bs) (t2eb4_peek bs)
  · rw [if_neg hp, if_neg hp]
    split
    · split <;> rfl
    · exact (readSlot_zero _ _).symm

/-- The bits skipped before and in a slot's table are together the literal's code. -/
theorem readSlot_some {skip : Nat} {v : Byte} (bs : Bits)
    (h : skip + (asciiTables.chBits.getD v.toNat 0).toNat = romAt chBitsAsc v.toNat) :
    readSlot skip (some v) bs = if romAt chBitsAsc v.toNat ≤ bs.length then .literal v (bs.drop (romAt chBitsAsc v.toNat))
      else .needMore := by
  have hlen : (bs.drop skip).length = bs.length - skip := List.length_drop
  rcases Nat.lt_or_ge bs.length skip with hshort | hthere
  · rw [if_neg (by omega)]
    simp only [readSlot, skipBits_none hshort]
  · rcases Nat.lt_or_ge (bs.drop skip).length (asciiTables.chBits.getD v.toNat 0).toNat with hshort | hrest
    · rw [if_neg (by omega)]
      simp only [readSlot, finishLiteral, skipBits_there hthere, skipBits_none hshort]
    · rw [if_pos (by omega), ← h]
      simp only [readSlot, finishLiteral, skipBits_there hthere, skipBits_there hrest, List.drop_drop]

theorem ascii_code_fits (v : Byte) :
    romAt chBitsAsc v.toNat ≤ 13 ∧ romAt chCodeAsc v.toNat < 2 ^ romAt chBitsAsc v.toNat := ascii_rom_fits ⟨v.toNat, v.isLt⟩

theorem decodeAsciiLiteral_code (v : Byte) (rest : Bits) :
    decodeAsciiLiteral asciiTables (natBits (romAt chBitsAsc v.toNat) (romAt chCodeAsc v.toNat) ++ rest)
      = .literal v rest := by
  obtain ⟨hbits, hcode⟩ := ascii_code_fits v
  obtain ⟨skip, u, hselect, -, hsize, hunique⟩ :=
    asciiSelect_spec (peekBits_lt 13 (natBits (romAt chBitsAsc v.toNat) (romAt chCodeAsc v.toNat) ++ rest))
  obtain rfl : v = u := hunique v (by rw [peekBits_prefix hbits, Nat.mod_eq_of_lt hcode])
  rw [decodeAsciiLiteral_eq, hselect, readSlot_some _ hsize, if_pos (by simp [natBits_length]),
    List.drop_left' (natBits_length _ _)]

/-- Bits that may follow a discriminator 0 of an Ascii stream: a literal's code, or too few for one. -/
theorem decodeAsciiLiteral_cases (bs : Bits) :
    (∃ v : Byte, ∃ rest, bs = natBits (romAt chBitsAsc v.toNat) (romAt chCodeAsc v.toNat) ++ rest)
      ∨ (bs.length < 13 ∧ decodeAsciiLiteral asciiTables bs = .needMore) := by
  obtain ⟨skip, v, hselect, hcode, hsize, -⟩ := asciiSelect_spec (peekBits_lt 13 bs)
  obtain ⟨hbits, -⟩ := ascii_code_fits v
  obtain hshort | ⟨rest, rfl⟩ := short_or_code hbits hcode
  · exact .inr ⟨by omega, by rw [decodeAsciiLiteral_eq, hselect, readSlot_some _ hsize, if_neg (by omega)]⟩
  · exact .inl ⟨v, rest, rfl⟩

/-! ## Symbols (R93) -/

theorem decodeSymbol_one (t : BuiltTables) (ct : CType) (bs : Bits) : decodeSymbol t ct (true :: bs) = decodeLength t bs := by
  simp [decodeSymbol, takeBits, bitsValue]

theorem decodeSymbol_binary (t : BuiltTables) (bs : Bits) : decodeSymbol t .binary (false :: bs) = decodeLitB bs := by
  simp [decodeSymbol, takeBits, bitsValue]

theorem decodeSymbol_ascii (t : BuiltTables) (bs : Bits) : decodeSymbol t .ascii (false :: bs) = decodeLitA t bs := by
  simp [decodeSymbol, takeBits, bitsValue]

theorem decodeLitB_code (b : Byte) (rest : Bits) : decodeLitB (natBits 8 b.toNat ++ rest) = .item (.litB b) rest := by
  rw [decodeLitB, takeBits_field b.isLt]
  simp

theorem decodeLitA_code (b : Byte) (rest : Bits) :
    decodeLitA (explodeTables .ascii) (natBits (romAt chBitsAsc b.toNat) (romAt chCodeAsc b.toNat) ++ rest)
      = .item (.litA b) rest := by
  simp only [decodeLitA, explodeTables, decodeAsciiLiteral_code]

/-! ## Items -/

/-- An item with its operands in range is the view of its instruction. -/
theorem item_ofItem {item : Item} (h : item.inRange) : (Instr.ofItem item).item = item := by
  cases item with
  | hdr0 c => exact item_hdr0 c
  | hdr1 d => exact item_hdr1 d
  | litB b => rfl
  | litA b => exact item_litA b
  | len i e =>
    obtain ⟨hi, he, -⟩ := h
    exact item_len hi he
  | eos => rfl
  | dist c low => exact item_dist h low

theorem inRange_of_wellFormed {i : Instr} (h : i.WellFormed = true) : i.item.inRange := by
  have hr := item_ranges i
  unfold Instr.WellFormed at h
  cases hi : i.item with
  | len k e =>
    rw [hi] at hr h
    exact ⟨hr.1, hr.2, by rintro ⟨rfl, rfl⟩; exact absurd h (by decide)⟩
  | dist c low => rw [hi] at hr; exact hr
  | _ => trivial

theorem encodeItem_length (item : Item) : (encodeItem item).length = itemBits item := by
  cases item with
  | litA b => simp only [encodeItem, itemBits, List.length_cons, natBits_length]; omega
  | len i e => simp only [encodeItem, itemBits, List.length_cons, List.length_append, natBits_length]; omega
  | eos => rfl
  | _ => simp [encodeItem, itemBits, natBits_length]

/-- No item part has more than 16 bits (R107). -/
theorem itemBits_le {item : Item} (h : item.inRange) : itemBits item ≤ 16 := by
  cases item with
  | hdr0 c => simp [itemBits]
  | hdr1 d => simp [itemBits]
  | litB b => simp [itemBits]
  | litA b =>
    obtain ⟨hbits, -⟩ := ascii_code_fits b
    simp only [itemBits]
    omega
  | len i e =>
    obtain ⟨hbits, -⟩ := len_rom_fits h.1
    have := exLenBits_le h.1
    simp only [itemBits]
    omega
  | eos => decide
  | dist c low =>
    obtain ⟨hbits, -⟩ := dist_rom_fits ⟨c, h⟩
    have := widthBits_le (lowWidth low)
    simp only [itemBits] at hbits ⊢
    omega

/-- The bits of an item decode to it, at every place it can stand, whatever follows. -/
theorem decode_encodeItem {item : Item} {ct : CType} {p : Place} (h : item.inRange) (hc : canStand item p)
    (ht : tablesAt ct p) (rest : Bits) : decode (explodeTables ct) p (encodeItem item ++ rest) = .item (.ofItem item) rest := by
  cases item with
  | hdr0 c => cases hc; exact decodeHdr0_code c rest
  | hdr1 d => cases hc; exact decodeHdr1_code d rest
  | litB b => cases hc; simp only [decode, encodeItem, List.cons_append, decodeSymbol_binary, decodeLitB_code, Instr.ofItem]
  | litA b =>
    cases hc
    obtain rfl := ht .ascii rfl
    simp only [decode, encodeItem, List.cons_append, decodeSymbol_ascii, decodeLitA_code, Instr.ofItem]
  | len i e =>
    obtain ⟨c, rfl⟩ := hc
    obtain ⟨hi, he, -⟩ := id h
    simp only [decode, encodeItem, List.cons_append, List.append_assoc, decodeSymbol_one, decodeLength_code ct hi he,
      lengthItem_len h, Instr.ofItem]
  | eos =>
    obtain ⟨c, rfl⟩ := hc
    simp only [decode, encodeItem, List.cons_append, List.append_assoc, decodeSymbol_one,
      decodeLength_code ct (i := 15) (e := 255) (by decide) (by decide), lengthItem_eos, Instr.ofItem]
  | dist c low =>
    cases hc
    rw [encodeItem, List.append_assoc]
    exact decodeDistance_code ct h low rest

/-- Everything that the bits at a place can be. -/
inductive Reading (ct : CType) (p : Place) (bs : Bits) : Prop where
  | item {item : Item} {rest : Bits} (range : item.inRange) (stands : canStand item p) (bits : bs = encodeItem item ++ rest)
  | short (few : bs.length < 16) (needMore : decode (explodeTables ct) p bs = .needMore)
  | badType (place : p = .hdr0) (b : Byte) (bad : decode (explodeTables ct) p bs = .badCompressionType b)
  | badClass (place : p = .hdr1) (b : Byte) (bad : decode (explodeTables ct) p bs = .badDictionarySize b)

theorem reading_hdr0 (ct : CType) (bs : Bits) : Reading ct .hdr0 bs := by
  obtain hshort | ⟨v, rest, hv, rfl⟩ := short_or_field 8 bs
  · exact .short (by omega) (by simp only [decode, decodeHdr0, takeBits_none hshort])
  · cases hc : ctypeOf (BitVec.ofNat 8 v) with
    | none => exact .badType rfl (BitVec.ofNat 8 v) (by simp only [decode, decodeHdr0, takeBits_field hv, hc])
    | some c =>
      refine .item (item := .hdr0 c) (rest := rest) trivial rfl ?_
      rw [encodeItem, ctypeCode_of_ctypeOf hc, BitVec.toNat_ofNat, Nat.mod_eq_of_lt hv]

theorem reading_hdr1 (ct : CType) (bs : Bits) : Reading ct .hdr1 bs := by
  obtain hshort | ⟨v, rest, hv, rfl⟩ := short_or_field 8 bs
  · exact .short (by omega) (by simp only [decode, decodeHdr1, takeBits_none hshort])
  · cases hd : dsizeOf (BitVec.ofNat 8 v) with
    | none => exact .badClass rfl (BitVec.ofNat 8 v) (by simp only [decode, decodeHdr1, takeBits_field hv, hd])
    | some d =>
      refine .item (item := .hdr1 d) (rest := rest) trivial rfl ?_
      rw [encodeItem, dsizeCode_of_dsizeOf hd, BitVec.toNat_ofNat, Nat.mod_eq_of_lt hv]

theorem reading_litB (bs : Bits) : Reading .binary (.symbol .binary) (false :: bs) := by
  obtain hshort | ⟨v, rest, hv, rfl⟩ := short_or_field 8 bs
  · refine .short (by simp; omega) ?_
    simp only [decode, decodeSymbol_binary, decodeLitB, takeBits_none hshort]
  · refine .item (item := .litB (BitVec.ofNat 8 v)) (rest := rest) trivial rfl ?_
    rw [encodeItem, BitVec.toNat_ofNat, Nat.mod_eq_of_lt hv]
    rfl

theorem reading_litA (bs : Bits) : Reading .ascii (.symbol .ascii) (false :: bs) := by
  obtain ⟨v, rest, rfl⟩ | ⟨hfew, hmore⟩ := decodeAsciiLiteral_cases bs
  · exact .item (item := .litA v) (rest := rest) trivial rfl rfl
  · refine .short (by simp; omega) ?_
    simp only [decode, decodeSymbol_ascii, decodeLitA, explodeTables, hmore]

/-- After a discriminator 1: EOS has its bits before LEN.15 (R97, R106). -/
theorem reading_len (ct : CType) (bs : Bits) : Reading ct (.symbol ct) (true :: bs) := by
  obtain ⟨i, e, rest, hi, he, rfl⟩ | ⟨hfew, hmore⟩ := decodeLength_cases ct bs
  · rw [← List.append_assoc]
    by_cases heos : i = 15 ∧ e = 255
    · obtain ⟨rfl, rfl⟩ := heos
      exact .item (item := .eos) trivial ⟨ct, rfl⟩ rfl
    · exact .item (item := .len i e) ⟨hi, he, heos⟩ ⟨ct, rfl⟩ rfl
  · exact .short (by simp; omega) (by simp only [decode, decodeSymbol_one, hmore])

theorem reading_symbol (ct : CType) : ∀ bs : Bits, Reading ct (.symbol ct) bs
  | [] => .short (by decide) rfl
  | true :: bs => reading_len ct bs
  | false :: bs => by
    cases ct with
    | binary => exact reading_litB bs
    | ascii => exact reading_litA bs

theorem reading_distance (ct : CType) (w : DistWidth) (bs : Bits) : Reading ct (.distance w) bs := by
  obtain ⟨c, low, rest, hc, rfl, rfl⟩ | ⟨hfew, hmore⟩ := decodeDistance_cases ct w bs
  · rw [← List.append_assoc]
    exact .item (item := .dist c low) hc rfl rfl
  · exact .short (by omega) hmore

/-- Bits at a place that are no item are too few, or an illegal header byte (R104). -/
theorem reading {ct : CType} {p : Place} (ht : tablesAt ct p) (bs : Bits) : Reading ct p bs := by
  cases p with
  | hdr0 => exact reading_hdr0 ct bs
  | hdr1 => exact reading_hdr1 ct bs
  | symbol c =>
    obtain rfl := ht c rfl
    exact reading_symbol c bs
  | distance w => exact reading_distance ct w bs

/-! ## O20, O21 -/

/-- Settles O20, shape by shape. -/
theorem decodeInvertsEncode : Obligations.DecodeInvertsEncode := by
  intro i ct p rest hwf hc ht
  have h := decode_encodeItem (inRange_of_wellFormed hwf) hc ht rest
  rwa [ofItem_item] at h

/-- Settles O21: bits that decode to an item are an item's encoding, which decodes to that item. -/
theorem encodeInvertsDecode : Obligations.EncodeInvertsDecode := by
  intro i ct p bs rest ht hd
  obtain ⟨-, hrange, hstand⟩ := decode_stands hd ht
  refine ⟨?_, wf_of_inRange hrange, hstand⟩
  cases reading ht bs with
  | @item item rest' range stands bits =>
    have h := decode_encodeItem range stands ht rest'
    rw [← bits, hd] at h
    obtain ⟨rfl, rfl⟩ := Decoded.item.inj h
    rw [encode, item_ofItem range]
    exact bits
  | short few needMore => rw [hd] at needMore; cases needMore
  | badType place b bad => rw [hd] at bad; cases bad
  | badClass place b bad => rw [hd] at bad; cases bad

/-- The decoder reads exactly the encodings of the well-formed instructions that can stand at the place. -/
theorem decode_eq_item_iff {ct : CType} {p : Place} (ht : tablesAt ct p) (bs rest : Bits) (i : Instr) :
    decode (explodeTables ct) p bs = .item i rest ↔ bs = encode i ++ rest ∧ i.WellFormed = true ∧ canStand i.item p := by
  constructor
  · exact encodeInvertsDecode i ct p bs rest ht
  · rintro ⟨rfl, hwf, hc⟩
    exact decodeInvertsEncode i ct p rest hwf hc ht

/-! ## O19, O22 -/

theorem decodedInstr_eq_some_iff {d : Decoded} {i : Instr} : decodedInstr d = some i ↔ ∃ rest, d = .item i rest := by
  cases d <;> simp [decodedInstr, eq_comm]

/-- Which instruction is read is a question of which encoding stands first. -/
theorem decodedInstr_decode_iff {ct : CType} {p : Place} (ht : tablesAt ct p) (bs : Bits) (i : Instr) :
    decodedInstr (decode (explodeTables ct) p bs) = some i ↔ encode i <+: bs ∧ i.WellFormed = true ∧ canStand i.item p := by
  simp only [decodedInstr_eq_some_iff, decode_eq_item_iff ht, exists_and_right, List.IsPrefix, eq_comm (a := bs)]

theorem encode_length_le {i : Instr} (h : i.WellFormed = true) : (encode i).length ≤ 16 := by
  rw [encode, encodeItem_length]
  exact itemBits_le (inRange_of_wellFormed h)

/-- Settles O19: an encoding that stands first stands among the first 32 bits. -/
theorem fetchSpanSuffices : Obligations.FetchSpanSuffices := by
  intro ct p bs ht
  refine Option.ext fun i => ?_
  rw [decodedInstr_decode_iff ht, decodedInstr_decode_iff ht, List.prefix_take_iff]
  constructor
  · rintro ⟨⟨hprefix, -⟩, h⟩
    exact ⟨hprefix, h⟩
  · rintro ⟨hprefix, hwf, hc⟩
    exact ⟨⟨hprefix, (encode_length_le hwf).trans (by decide)⟩, hwf, hc⟩

/-- Settles O22: bits that are no item are short, or a header byte. -/
theorem everyLongBitSequenceDecodes : Obligations.EveryLongBitSequenceDecodes := by
  intro ct p bs ht h0 h1 hlong
  cases reading ht bs with
  | @item item rest range stands bits => exact ⟨_, _, bits ▸ decode_encodeItem range stands ht rest⟩
  | short few => omega
  | badType place => exact absurd place h0
  | badClass place => exact absurd place h1

end Sys2Proof

/-! PROOFS. O5, O9, O10, O12, O13, O15 and O16: the effect of each item, and its refusal where it cannot stand. -/

namespace Sys2Proof.Machine

/-! ## Header byte 0, literals, EOS -/

/-- Settles O5: every HDR0 row is `acceptHdr0` of its type. -/
theorem headerByte0Result : Obligations.HeaderByte0Result := by
  intro i ct s hi due
  rw [exec_eq_execItem, hi]
  exact acceptHdr0_due due ct

/-- What a literal does to the window and to `OUT` (R190, R224). -/
theorem literal_result {ct : CType} {s : State} (due : SymbolDue ct s) (size : Nat) (b : Byte) :
    ∃ t, literal ct size b s = .next t
      ∧ t = { s with win := t.win, output := t.output, ipos := s.ipos + size }
      ∧ t.win.len = s.win.len + 1
      ∧ (∀ a, t.win.mem.read a = if a = s.win.len then some b else s.win.mem.read a)
      ∧ t.output.count = s.output.count + 1
      ∧ ∀ a, t.output.mem.read a = if a = s.output.mem.next then some b else s.output.mem.read a :=
  ⟨_, literal_due due size b, rfl, rfl, emitByte_win_read b, rfl, fun a => Memory.read_write _ _ a b⟩

/-- Settles O9: LIT.B is a literal of 9 bits. -/
theorem binaryLiteralResult : Obligations.BinaryLiteralResult := by
  intro b s due
  rw [exec_eq_execItem]
  exact literal_result due 9 b

/-- Settles O10: every LIT.A row is a literal of its code's length and the discriminator. -/
theorem asciiLiteralResult : Obligations.AsciiLiteralResult := by
  intro i b s hi due
  rw [exec_eq_execItem, hi, Nat.add_assoc]
  exact literal_result due (1 + romAt chBitsAsc b.toNat) b

/-- Settles O12: both terms are `endOfStream`. -/
theorem endOfStreamResult : Obligations.EndOfStreamResult := by
  rintro i ct s (rfl | rfl) due
  · exact endOfStream_due due
  · exact endOfStream_due due

/-! ## Matches (R192, R226, R233) -/

/-- Outside a range it covers a space holds no byte. -/
theorem Memory.covers_read_none {m : Memory} {base count : Nat} (h : m.covers base count) {a : Nat}
    (ha : base + count ≤ a) : m.read a = none := by
  rw [← Option.not_isSome_iff_eq_none, Memory.covers_read h]
  omega

@[simp] theorem State.atCopy_win (s : State) (m : PendingMatch) (c : Nat) (low : DistLow) : (s.atCopy m c low).win = s.win :=
  rfl
@[simp] theorem State.atCopy_output (s : State) (m : PendingMatch) (c : Nat) (low : DistLow) :
    (s.atCopy m c low).output = s.output := rfl

/-- Within reach `copyMatch` is its copy loop. -/
theorem copyMatch_within {count off : Nat} {s t : State} (h : off ≤ s.win.len) (ht : copyBytes count off s = some t) :
    copyMatch count off s = .next t := by
  rw [copyMatch, if_neg (by omega), ht]

/-- Settles O13: the copy loop's closed form on the state the DIST part hands to it. -/
theorem distancePartCopies : Obligations.DistancePartCopies := by
  intro i c low m ds s hi due hw hs hreach
  obtain ⟨t, ht, hframe, hspaces, hlen, hcount, hout, hwin, houtput, hcopy⟩ :=
    copyBytes_spec m.length (hs.congr (t := s.atCopy m c low) rfl rfl rfl) (matchOffset_pos c low) hreach
  simp only [State.atCopy_win, State.atCopy_output] at hlen hcount hout hwin houtput hcopy
  have hnext : s.output.mem.next = s.output.mem.length := hs.next
  refine ⟨t, ?_, hframe, hlen, hcount, ?_, ?_, ?_⟩
  · rw [exec_eq_execItem, hi]
    exact (distancePart_due due hw).trans (copyMatch_within hreach ht)
  · rintro a (ha | ha)
    · exact hwin a ha
    · rw [Memory.covers_read_none hspaces.window (by omega), Memory.covers_read_none hs.window (by omega)]
  · rw [hnext]
    rintro a (ha | ha)
    · exact houtput a ha
    · rw [Memory.covers_read_none hspaces.output (by omega), Memory.covers_read_none hs.output (by omega)]
  · rw [hnext]
    exact hcopy

/-- A DIST part that reaches before the first byte raises (R233). -/
theorem distancePart_beyond {m : PendingMatch} {ds : DSize} {s : State} (due : DistanceDue m ds s) {c : Nat} {low : DistLow}
    (hw : lowWidth low = distWidth s.len2Short m.length ds) (hfar : s.win.len < matchOffset c low) :
    distancePart c low s = .next (raise .malformedSymbol (s.atCopy m c low)) := by
  rw [distancePart_due due hw]
  exact if_pos hfar

/-- After a LEN part its DIST part is due (R99). -/
theorem SymbolDue.distanceDue {ct : CType} {ds : DSize} {s : State} (due : SymbolDue ct s) (hds : s.hdr.dsize = some ds)
    (m : PendingMatch) : DistanceDue m ds { s with pending := some m } :=
  ⟨due.kind, due.activity, due.eos, due.phase, rfl, hds⟩

/-- Settles O16: the LEN part makes its DIST part due, which `distancePartCopies` describes. -/
theorem matchIsLengthThenDistance : Obligations.MatchIsLengthThenDistance := by
  intro i j bucket extra c low ct ds s hi hne hj due hds hw hs
  have hdist := due.distanceDue hds
    { length := matchLength bucket extra, pos := s.ipos + itemBits (.len bucket extra) }
  refine ⟨_, lengthPartResult i bucket extra ct s hi hne due, fun hfar => ?_, fun hreach => ?_⟩
  · rw [exec_eq_execItem j, hj]
    exact ⟨_, distancePart_beyond hdist hw hfar, rfl, rfl⟩
  · obtain ⟨t, ht, hframe, hlen, -, hkept, -, hcopy⟩ :=
      distancePartCopies j c low _ ds _ hj hdist hw (hs.congr rfl rfl rfl) hreach
    refine ⟨t, ht, ?_, hlen, fun a ha => hkept a (.inl ha), fun k hk => (hcopy k hk).1⟩
    refine hframe.trans ?_
    simp only [State.mk.injEq, due.pending, itemBits, true_and, and_true]
    omega

/-! ## Items out of place (log 11) -/

theorem atSymbol_false {s : State} (h : ∀ ct, s.place ≠ some (.symbol ct)) : s.atSymbol ≠ true := by
  rw [ne_eq, atSymbol_iff]
  rintro ⟨ct, due⟩
  exact h ct due.place

/-- Settles O15, shape by shape. -/
theorem outOfPlaceItemRefused : Obligations.OutOfPlaceItemRefused := by
  intro i s h
  rw [exec_eq_execItem]
  cases hi : i.item with
  | hdr0 ct => rw [hi] at h; exact if_neg fun hp => h _ hp rfl
  | hdr1 ds =>
    rw [hi] at h
    simp only [execItem, acceptHdr1]
    split
    · rename_i hp _; exact absurd rfl (h _ hp)
    · rfl
  | litB b => rw [hi] at h; exact if_neg fun hp => h _ hp rfl
  | litA b => rw [hi] at h; exact if_neg fun hp => h _ hp rfl
  | len bucket extra =>
    rw [hi] at h
    have hat := atSymbol_false fun ct hp => h _ hp ⟨ct, rfl⟩
    simp only [execItem]
    split
    · exact if_neg hat
    · exact if_neg hat
  | eos => rw [hi] at h; exact if_neg (atSymbol_false fun ct hp => h _ hp ⟨ct, rfl⟩)
  | dist c low =>
    rw [hi] at h
    simp only [execItem, distancePart]
    split
    · rename_i hp _; exact if_neg fun hw => h _ hp (congrArg Place.distance hw.symm)
    · rfl

end Sys2Proof.Machine

/-! PROOFS. O57: the only ways into `Failed`. -/

namespace Sys2Proof.Machine

/-- Only an EXPLODE engine can fail (R260). -/
theorem Move.explode_of_failed {s t : State} (m : Move s t) (hlive : s.phase ≠ .failed) (hfail : t.phase = .failed) :
    s.kind = some .explode := by
  cases m with
  | fail kind => exact kind
  | create => cases hfail
  | headerByte1 => cases hfail
  | startFlushing => cases hfail
  | endExplode => cases hfail
  | startImplode => cases hfail
  | emit _ _ _ frame => rw [frame] at hfail; exact absurd hfail hlive
  | endImplode => cases hfail
  | _ => exact absurd hfail hlive

/-- Between transactions nothing fails. -/
theorem idleStep_not_failed {s t : State} (h : idleStep s = .next t) (hlive : s.phase ≠ .failed) : t.phase ≠ .failed := by
  obtain ⟨-, rfl⟩ | ⟨r, rest, -, h⟩ := idleStep_next h
  · exact hlive
  · cases r with
    | createExplode => cases h; simp [acceptCreateExplode, State.created, State.reset]
    | createImplode ct ds =>
      cases h
      unfold acceptCreateImplode
      split <;> simp [State.created, State.reset]
    | feed chunk => obtain ⟨-, ⟨-, rfl⟩ | ⟨-, -, rfl⟩ | ⟨-, -, -, rfl⟩⟩ := acceptFeed_next h <;> exact hlive
    | finish => obtain ⟨-, ⟨-, rfl⟩ | ⟨-, -, rfl⟩ | ⟨-, -, rfl⟩⟩ := acceptFinish_next h <;> exact hlive
    | discard => cases h; simp [State.created, State.reset]

/-- The copy loop never fails. -/
theorem copyBytes_phase {count off : Nat} {s t : State} (h : copyBytes count off s = some t) : t.phase = s.phase := by
  induction count generalizing s with
  | zero => cases h; rfl
  | succ n ih =>
    unfold copyBytes at h
    split at h
    · cases h
    · exact (ih h :)

/-- The one item that can fail: a DIST part that reaches before the first byte (R233). -/
theorem exec_failed {i : Instr} {s t : State} (h : exec i s = .next t) (hlive : s.phase ≠ .failed)
    (hfail : t.phase = .failed) :
    ∃ m ds c low, DistanceDue m ds s ∧ i.item = .dist c low ∧ lowWidth low = distWidth s.len2Short m.length ds
      ∧ s.win.len < matchOffset c low ∧ t.err = some .malformedSymbol := by
  rw [exec_eq_execItem] at h
  cases hi : i.item with
  | hdr0 ct => rw [hi] at h; obtain ⟨-, rfl⟩ := acceptHdr0_next h; exact absurd hfail hlive
  | hdr1 ds => rw [hi] at h; obtain ⟨ct, -, rfl⟩ := acceptHdr1_next h; cases hfail
  | litB b => rw [hi] at h; obtain ⟨-, rfl⟩ := literal_next h; exact absurd hfail hlive
  | litA b => rw [hi] at h; obtain ⟨-, rfl⟩ := literal_next h; exact absurd hfail hlive
  | eos => rw [hi] at h; obtain ⟨-, rfl⟩ := endOfStream_next h; exact absurd hfail hlive
  | len bucket extra =>
    rw [hi] at h
    simp only [execItem] at h
    split at h
    · obtain ⟨-, rfl⟩ := endOfStream_next h; exact absurd hfail hlive
    · obtain ⟨-, rfl⟩ := lengthPart_next h; exact absurd hfail hlive
  | dist c low =>
    rw [hi] at h
    obtain ⟨m, ds, due, hw, h⟩ := distancePart_next h
    obtain ⟨hfar, rfl⟩ | ⟨-, h⟩ := copyMatch_next h
    · exact ⟨m, ds, c, low, due, rfl, hw, hfar, rfl⟩
    · exact absurd ((copyBytes_phase h).symm.trans hfail) hlive

/-- At a symbol or a distance of a streaming engine the fetch gives an item or needs more: no other answer (R104, R181). -/
theorem fetch_streaming {s : State} {p : Place} (h : Inv s) (hp : s.place = some p) (hph : s.phase = .streaming) :
    (∃ i rest, s.fetch p = .item i rest) ∨ s.fetch p = .needMore := by
  obtain ⟨ct, htab, hat⟩ := explode_tablesAt h hp hph
  rw [State.fetch, htab]
  cases reading hat (s.fetchBits p) with
  | @item item rest range stands bits => exact .inl ⟨_, _, bits ▸ decode_encodeItem range stands hat rest⟩
  | short few needMore => exact .inr needMore
  | badType place =>
    subst place
    have := (place_hdr0 hp).phase
    simp [hph] at this
  | badClass place =>
    subst place
    obtain ⟨c, due⟩ := place_hdr1 hp
    have := due.phase
    simp [hph] at this

/-! ## Header bytes (R91, R92, R205) -/

theorem ctypeOf_eq_none {b : Byte} (h : ctypeOf b = none) : b ≠ 0 ∧ b ≠ 1 := by
  constructor <;> rintro rfl <;> cases h

theorem dsizeOf_eq_none {b : Byte} (h : dsizeOf b = none) : b ≠ 4 ∧ b ≠ 5 ∧ b ≠ 6 := by
  refine ⟨?_, ?_, ?_⟩ <;> rintro rfl <;> cases h

/-- Where a header byte is due, all 4 bytes waited for are in `IN` (R207). -/
theorem header_byte_there {first : Option CType} {s : State} (h : Inv s) (due : HeaderByteDue first s) {k : Nat}
    (hk : k < Config.hdrMinAvail) : k < s.input.total ∧ ∃ b, s.input.mem.read k = some b := by
  have hlt := hk.trans_le due.enough
  exact ⟨hlt, byteAt h.spaces ((h.explode due.kind (by simp [due.phase])).due due.phase).base hlt⟩

theorem headerByte0_failed {s t : State} (h : Inv s) (due : HeaderByteDue none s) (ht : afterFetch (s.fetch .hdr0) s = .next t)
    (hfail : t.phase = .failed) :
    t.err = some .invalidCompressionType ∧ ∃ b, s.input.mem.read 0 = some b ∧ b ≠ 0 ∧ b ≠ 1 := by
  obtain ⟨hlt, b, hb⟩ := header_byte_there h due (k := 0) (by decide)
  rw [fetch_hdr0 hb hlt] at ht
  cases hc : ctypeOf b with
  | none => rw [hc] at ht; cases ht; exact ⟨rfl, b, hb, ctypeOf_eq_none hc⟩
  | some c =>
    rw [hc] at ht
    obtain ⟨m, ds, c', low, -, hi, -⟩ := exec_failed ht (by simp [due.phase]) hfail
    rw [item_hdr0] at hi
    cases hi

theorem headerByte1_failed {s t : State} {ct : CType} (h : Inv s) (due : HeaderByteDue (some ct) s)
    (ht : afterFetch (s.fetch .hdr1) s = .next t) (hfail : t.phase = .failed) :
    t.err = some .invalidDictionarySize ∧ ∃ b, s.input.mem.read 1 = some b ∧ b ≠ 4 ∧ b ≠ 5 ∧ b ≠ 6 := by
  obtain ⟨hlt, b, hb⟩ := header_byte_there h due (k := 1) (by decide)
  rw [fetch_hdr1 hb hlt] at ht
  cases hd : dsizeOf b with
  | none => rw [hd] at ht; cases ht; exact ⟨rfl, b, hb, dsizeOf_eq_none hd⟩
  | some d =>
    rw [hd] at ht
    obtain ⟨m, ds, c', low, -, hi, -⟩ := exec_failed ht (by simp [due.phase]) hfail
    rw [item_hdr1] at hi
    cases hi

/-! ## The two transactions of an EXPLODE engine -/

/-- A streaming engine fails on a match that reaches too far, and on nothing else (R233). -/
theorem streaming_failed {s t : State} {p : Place} (h : Inv s) (hp : s.place = some p) (hph : s.phase = .streaming)
    (ht : afterFetch (s.fetch p) s = .next t) (hfail : t.phase = .failed) :
    t.err = some .malformedSymbol ∧ ∃ m ds i c low rest, DistanceDue m ds s
      ∧ s.fetch (.distance (lowWidth low)) = .item i rest ∧ i.item = .dist c low ∧ s.win.len < matchOffset c low := by
  have hlive := not_failed_streaming hph
  obtain ⟨i, rest, hf⟩ | hf := fetch_streaming h hp hph
  · rw [hf] at ht
    obtain ⟨m, ds, c, low, due, hi, hw, hfar, herr⟩ := exec_failed ht hlive hfail
    obtain rfl : p = .distance (lowWidth low) := by rw [hw]; exact Option.some.inj (hp.symm.trans due.place)
    exact ⟨herr, m, ds, i, c, low, rest, due, hf, hi, hfar⟩
  · rw [hf] at ht
    cases ht
    exact absurd hfail hlive

/-- With no item due a `feed` ends without an error (R207, R236). -/
theorem explodeEndFeed_not_failed {s t : State} (h : explodeEndFeed s = .next t) (hlive : s.phase ≠ .failed) :
    t.phase ≠ .failed := by
  unfold explodeEndFeed at h
  split at h
  · cases h; exact hlive
  · split at h
    · cases h; exact hlive
    · cases h

/-- A `finish` fails with fewer than 4 bytes received, or without EOS (R207, R230). -/
theorem explodeFinish_failed {s t : State} (h : Inv s) (hk : s.kind = some .explode) (ha : s.activity = .finish)
    (ht : explodeFinish s = .next t) (hfail : t.phase = .failed) :
    (t.err = some .invalidData ∧ s.phase = .awaitingHeader ∧ s.input.total < 4)
      ∨ (t.err = some .truncatedStream ∧ s.phase = .flushing ∧ s.flags.eosSeen = false) := by
  unfold explodeFinish at ht
  split at ht
  · rename_i hph
    cases ht
    exact .inl ⟨rfl, hph, ((h.explode hk (by simp [hph])).due hph).few (by simp [ha])⟩
  · cases ht; cases hfail
  · rename_i hph
    split at ht
    · cases ht; cases hfail
    · rename_i he
      cases ht
      exact .inr ⟨rfl, hph, by simpa using he⟩
  · cases ht
  · cases ht

/-- Settles O57: by the activity of the engine, and inside a `feed` by the item that is due. -/
theorem errorsHaveTheirCauses : Obligations.ErrorsHaveTheirCauses := by
  intro s t h hs hlive hfail
  have hk := (step_move h hs).explode_of_failed hlive hfail
  have ht := (step_next hs).1
  refine ⟨hk, ?_⟩
  cases ha : s.activity with
  | idle => rw [engine_idle ha] at ht; exact absurd hfail (idleStep_not_failed ht hlive)
  | feed =>
    cases hp : s.place with
    | none =>
      rw [engine_feed hk ha, explodeFeed, hp] at ht
      exact absurd hfail (explodeEndFeed_not_failed ht hlive)
    | some p =>
      rw [engine_place hp] at ht
      rcases (h.control.feed ha).1 with hph | hph
      · obtain ⟨rfl, due⟩ | ⟨rfl, ct, due⟩ := place_awaiting hp hph
        · obtain ⟨herr, hb⟩ := headerByte0_failed h due ht hfail
          exact .inr (.inr (.inl ⟨herr, due, hb⟩))
        · obtain ⟨herr, hb⟩ := headerByte1_failed h due ht hfail
          exact .inr (.inr (.inr (.inl ⟨herr, ⟨ct, due⟩, hb⟩)))
      · exact .inr (.inr (.inr (.inr (streaming_failed h hp hph ht hfail))))
  | finish =>
    rw [engine_finish hk ha] at ht
    obtain ⟨herr, hph, hfew⟩ | ⟨herr, hph, heos⟩ := explodeFinish_failed h hk ha ht hfail
    · exact .inl ⟨herr, rfl, hph, hfew⟩
    · exact .inr (.inl ⟨herr, rfl, hph, heos⟩)

end Sys2Proof.Machine

/-! PROOFS. O24 to O27: fixed words, and the operands' ranges cover every offset and every length once. -/

namespace Sys2Proof.Machine

/-! ## Offsets (R98, R101, R160) -/

/-- The operands of an offset are its quotient and remainder by the low bits' range. -/
theorem matchOffset_eq_iff {c : Nat} {low : DistLow} {off : Nat} (h1 : 1 ≤ off) :
    matchOffset c low = off ↔
      c = (off - 1) / 2 ^ widthBits (lowWidth low) ∧ lowValue low = (off - 1) % 2 ^ widthBits (lowWidth low) := by
  have hlow := lowValue_lt low
  have h := Nat.div_mod_unique (a := off - 1) (c := lowValue low) (d := c) (Nat.two_pow_pos (widthBits (lowWidth low)))
  rw [eq_comm (a := c), eq_comm (a := lowValue low), h, raw_eq, Nat.mul_comm c]
  omega

theorem distBits_sorted : distBits.Pairwise (· ≤ ·) := by decide

/-- A higher index never has a shorter code. -/
theorem distBits_mono {c c' : Nat} (h : c ≤ c') (hc : c' < 64) : romAt distBits c ≤ romAt distBits c' := by
  have hlen : distBits.length = 64 := by decide
  rcases h.eq_or_lt with rfl | hlt
  · exact Nat.le_refl _
  · rw [romAt, romAt, List.getD_eq_getElem _ _ (by omega), List.getD_eq_getElem _ _ (by omega)]
    exact List.pairwise_iff_getElem.1 distBits_sorted c c' _ _ hlt

/-- Settles O26: an offset's index and low bits are a quotient and its remainder. -/
theorem distanceOffsetsTile : Obligations.DistanceOffsetsTile := by
  refine ⟨fun c low => ?_, fun w off h1 h2 => ?_, fun ds => by cases ds <;> rfl, fun c c' => distBits_mono⟩
  · have := lowValue_lt low
    rw [raw_eq, Nat.shiftLeft_eq]
    omega
  · have hw := lowWidth_lowOf w ((off - 1) % 2 ^ widthBits w)
    refine ⟨(off - 1) >>> widthBits w, lowOf w ((off - 1) % 2 ^ widthBits w), ?_, hw, matchOffset_lowOf w h1, ?_⟩
    · rw [Nat.shiftRight_eq_div_pow]
      exact Nat.div_lt_of_lt_mul (by omega)
    · rintro c' low' rfl hoff
      obtain ⟨hc, hv⟩ := (matchOffset_eq_iff h1).1 hoff
      exact ⟨by rw [hc, Nat.shiftRight_eq_div_pow], by rw [← hv, lowOf_lowValue]⟩

/-! ## Lengths (R96, R100) -/

/-- No bucket goes past length 519. -/
theorem lenBase_add_le_end {i : Nat} (hi : i < 16) : lenBase i + 2 ^ romAt exLenBits i ≤ 518 := by
  have h : ∀ i : Fin 16, lenBase i + 2 ^ romAt exLenBits i ≤ 518 := by decide
  exact h ⟨i, hi⟩

theorem matchLength_eq_sum (bucket extra : Nat) :
    matchLength bucket extra = 2 + ((exLenBits.take bucket).map fun e => 2 ^ e).sum + extra := by
  simp only [matchLength, lenBase, Nat.one_shiftLeft]

/-- The longest length is that of the bits of EOS (R97). -/
theorem matchLength_last : matchLength 15 255 = 519 := by decide

theorem matchLength_surjective {len : Nat} (h1 : 2 ≤ len) (h2 : len ≤ 519) :
    ∃ i e, i < 16 ∧ e < 2 ^ romAt exLenBits i ∧ matchLength i e = len := by
  rcases Nat.lt_or_ge len 519 with hlt | hge
  · obtain ⟨i, e, hi, he, -, hl⟩ := matchLength_exists (len := len) h1 (by simp only [Config.maxLen]; omega)
    exact ⟨i, e, hi, he, hl⟩
  · exact ⟨15, 255, by decide, by decide, by rw [matchLength_last]; omega⟩

/-- Settles O27: the buckets' lengths lie one after another, without a gap. -/
theorem matchLengthsTile : Obligations.MatchLengthsTile := by
  refine ⟨fun i e hi he => ⟨matchLength_eq_sum i e, ?_, ?_⟩, fun len h1 h2 => ?_, matchLength_last⟩
  · simp only [matchLength]
    omega
  · have := lenBase_add_le_end hi
    simp only [matchLength]
    omega
  · obtain ⟨i, e, hi, he, hl⟩ := matchLength_surjective h1 h2
    exact ⟨i, e, hi, he, hl, fun j f hj hf h => matchLength_injective hj hi hf he (h.trans hl.symm)⟩

/-! ## Fixed words -/

/-- Settles O24: each word is evaluated. -/
theorem specWordsDecode : Obligations.SpecWordsDecode := by
  unfold Obligations.SpecWordsDecode
  decide +kernel

/-- Settles O25: the literal for every byte, the EOS bits by evaluation. -/
theorem fixedFormatValues : Obligations.FixedFormatValues := by
  refine ⟨fun b => ⟨?_, ?_⟩, by decide⟩
  · exact encodeItem_length (.litB b)
  · show bitsValue (false :: natBits 8 b.toNat) = _
    rw [bitsValue, bitsValue_natBits, Nat.mod_eq_of_lt b.isLt, Nat.shiftLeft_eq]
    simp [Nat.mul_comm]

end Sys2Proof.Machine

/-! PROOFS. O23: a proper beginning of an item is `NeedMore`. -/

namespace Sys2Proof

open Machine

/-- A header byte is refused only once all its 8 bits are there (R205). -/
theorem decode_header_short {p : Place} (hp : p = .hdr0 ∨ p = .hdr1) (t : BuiltTables) {bs : Bits} (h : bs.length < 8) :
    decode t p bs = .needMore := by
  obtain rfl | rfl := hp
  · simp only [decode, decodeHdr0, takeBits_none h]
  · simp only [decode, decodeHdr1, takeBits_none h]

theorem itemBits_header {item : Item} {p : Place} (hp : p = .hdr0 ∨ p = .hdr1) (hc : canStand item p) :
    itemBits item = 8 := by
  cases item with
  | hdr0 c => rfl
  | hdr1 d => rfl
  | _ => obtain rfl | rfl := hp <;> simp [canStand] at hc

/-- No item's encoding begins with another item's at the same place (R103). -/
theorem encode_prefix_free {i : Instr} {item : Item} {ct : CType} {p : Place} (hwf : i.WellFormed = true)
    (hc : canStand i.item p) (range : item.inRange) (stands : canStand item p) (ht : tablesAt ct p)
    (h : encodeItem item <+: encode i) : encodeItem item = encode i := by
  obtain ⟨tail, htail⟩ := h
  have whole := decodeInvertsEncode i ct p [] hwf hc ht
  rw [List.append_nil, ← htail, decode_encodeItem range stands ht] at whole
  obtain rfl : tail = [] := (Decoded.item.inj whole).2
  rw [← htail, List.append_nil]

/-- Settles O23: by what the bits of the beginning can be. -/
theorem incompleteItemNeedsMore : Obligations.IncompleteItemNeedsMore := by
  intro i ct p n hwf hc ht hn
  have header_short (hp : p = .hdr0 ∨ p = .hdr1) :
      decode (explodeTables ct) p ((encode i).take n) = .needMore := by
    have hlen : (encode i).length = 8 := (encodeItem_length i.item).trans (itemBits_header hp hc)
    exact decode_header_short hp _ (by rw [List.length_take]; omega)
  cases reading ht ((encode i).take n) with
  | @item item rest range stands bits =>
    have hbegins : encodeItem item <+: (encode i).take n := ⟨rest, bits.symm⟩
    have hwhole := encode_prefix_free hwf hc range stands ht (hbegins.trans (List.take_prefix n (encode i)))
    have hle := hbegins.length_le
    rw [hwhole, List.length_take] at hle
    omega
  | short few needMore => exact needMore
  | badType place => exact header_short (.inl place)
  | badClass place => exact header_short (.inr place)

end Sys2Proof

/-! PROOFS. O35, O36 and O53: the write side of the bit cursor, and the end of a compressed stream. -/

namespace Sys2Proof

/-! ## A field as whole bytes and the bits left over (R63, R121) -/

/-- The bytes of the first `8 * k` bits of a value. -/
def wordBytes (k v : Nat) : List Byte := (List.range k).map fun j => BitVec.ofNat 8 (v >>> (8 * j))

theorem wordBytes_length (k v : Nat) : (wordBytes k v).length = k := by
  rw [wordBytes, List.length_map, List.length_range]

theorem wordBytes_succ (k v : Nat) : wordBytes (k + 1) v = wordBytes k v ++ [BitVec.ofNat 8 (v >>> (8 * k))] := by
  rw [wordBytes, List.range_succ, List.map_append]
  rfl

theorem bytesBits_byte (v : Nat) : bytesBits [BitVec.ofNat 8 v] = natBits 8 v := by
  show natBits 8 (BitVec.ofNat 8 v).toNat ++ [] = natBits 8 v
  rw [List.append_nil, BitVec.toNat_ofNat, natBits_mod]

theorem bytesBits_wordBytes (k v : Nat) : bytesBits (wordBytes k v) = natBits (8 * k) v := by
  induction k with
  | zero => rfl
  | succ k ih =>
    rw [wordBytes_succ, bytesBits_append, ih, bytesBits_byte, Nat.shiftRight_eq_div_pow, Nat.mul_succ, natBits_add]

theorem natBits_wordBytes (k r v : Nat) : natBits (8 * k + r) v = bytesBits (wordBytes k v) ++ natBits r (v >>> (8 * k)) := by
  rw [bytesBits_wordBytes, Nat.shiftRight_eq_div_pow, natBits_add]

theorem natBits_injective {n u v : Nat} (hu : u < 2 ^ n) (hv : v < 2 ^ n) (h : natBits n u = natBits n v) : u = v := by
  have := congrArg bitsValue h
  rwa [bitsValue_natBits, bitsValue_natBits, Nat.mod_eq_of_lt hu, Nat.mod_eq_of_lt hv] at this

namespace Machine

/-- Bits are whole bytes and fewer than 8 bits left over in one way only. -/
theorem bytes_and_field_unique {xs ys : List Byte} {f g u v : Nat} (hf : f < 8) (hg : g < 8) (hu : u < 2 ^ f) (hv : v < 2 ^ g)
    (h : bytesBits xs ++ natBits f u = bytesBits ys ++ natBits g v) : xs = ys ∧ f = g ∧ u = v := by
  have hlen := congrArg List.length h
  simp only [List.length_append, bytesBits_length, natBits_length] at hlen
  obtain rfl : f = g := by omega
  obtain ⟨hbytes, hfield⟩ := List.append_inj' h (by rw [natBits_length, natBits_length])
  exact ⟨bytesBits_injective _ _ hbytes, rfl, natBits_injective hu hv hfield⟩

/-! ## O35 -/

/-- `acc` of R121: `n` bits of a value put above the `f` bits of a partial byte. -/
theorem putBits_acc {p f n v : Nat} (h : p < 2 ^ f) :
    natBits (f + n) (p ||| (v % 2 ^ n) <<< f) = natBits f p ++ natBits n v ∧ p ||| (v % 2 ^ n) <<< f < 2 ^ (f + n) := by
  have hacc : p ||| (v % 2 ^ n) <<< f = p + v % 2 ^ n * 2 ^ f := by
    rw [Nat.or_comm, ← Nat.shiftLeft_add_eq_or_of_lt h, Nat.shiftLeft_eq, Nat.add_comm]
  have hfield := Nat.mod_lt v (Nat.two_pow_pos n)
  constructor
  · rw [hacc, natBits_or n _ h, natBits_mod]
  · exact Nat.or_lt_two_pow (h.trans_le (Nat.pow_le_pow_right (by omega) (by omega)))
      (by rw [Nat.shiftLeft_eq, Nat.pow_add, Nat.mul_comm]; exact Nat.mul_lt_mul_of_pos_left hfield (Nat.two_pow_pos f))

/-- Settles O35: the bits put are those of `acc`, and its whole bytes and the bits left over are unique. -/
theorem putBitsWordForm : Obligations.PutBitsWordForm := by
  intro n v s _ h hcursor
  obtain ⟨-, hlt, hbits, hopos, hframe⟩ := putBits_spec n v h (cursor_lt hcursor)
  obtain ⟨hacc, haccLt⟩ := putBits_acc (n := n) (v := v.toNat) (cursor_lt hcursor)
  dsimp only
  generalize s.bc.partialByte.toNat ||| (v.toNat % 2 ^ n) <<< s.bc.bitsFilled.toNat = acc at hacc haccLt ⊢
  generalize htotal : s.bc.bitsFilled.toNat + n = total at hacc haccLt ⊢
  have hsplit : 8 * (total / 8) + total % 8 = total := Nat.div_add_mod total 8
  have hleft : acc >>> (8 * (total / 8)) < 2 ^ (total % 8) := by
    rw [Nat.shiftRight_eq_div_pow]
    exact Nat.div_lt_of_lt_mul (by rwa [← Nat.pow_add, hsplit])
  have hword := natBits_wordBytes (total / 8) (total % 8) acc
  rw [hsplit, hacc] at hword
  rw [State.outBits, State.outBits, List.append_assoc, hword, ← List.append_assoc, ← bytesBits_append] at hbits
  obtain ⟨hbytes, hfilled, hpartial⟩ :=
    bytes_and_field_unique (putBits n v s).bc.bitsFilled.isLt (Nat.mod_lt _ (by decide)) hlt hleft hbits
  refine ⟨hframe, hbytes, ?_, hfilled, hpartial, cursor_of_lt hlt, hopos⟩
  simp only [State.opos] at hopos
  omega

/-! ## O36 -/

/-- Settles O36: on a byte boundary `flush` is the identity, else it appends `BC.PARTIAL` to `OUT`. -/
theorem flushCompletesTheByte : Obligations.FlushCompletesTheByte := by
  refine fun s h => ⟨fun h0 => if_pos h0, fun h0 => ?_⟩
  have hflush : s.flush = { s.outAppend s.bc.partialByte with bc := { partialByte := 0, bitsFilled := 0 } } := if_neg h0
  rw [hflush]
  exact ⟨rfl, outAppend_bytes h _, rfl⟩

/-! ## O53 -/

/-- On a byte boundary the bits put are those of the bytes in `OUT`. -/
theorem outBits_of_empty {s : State} (h : s.bc = { partialByte := 0, bitsFilled := 0 }) :
    s.outBits = bytesBits s.output.mem.bytes := by
  simp [State.outBits, h, natBits]

/-- What the end of an IMPLODE engine's stream puts: EOS, and zero bits up to the byte boundary (R271, R272). -/
theorem endImplode_spec {ct : CType} {s : State} (h : Emitting ct s) :
    ∃ o pad, endImplode s = .next (s.imploded o).deliver ∧ pad < 8
      ∧ bytesBits o.mem.bytes = s.outBits ++ encodeItem .eos ++ List.replicate pad false := by
  obtain ⟨u, hu, uspaces, ucursor, ubits, uframe⟩ := emitEos_spec h
  obtain ⟨-, fcursor, fbits, fframe⟩ := flush_spec uspaces ucursor
  have hend : endImplode s = .next (((u.flush).setNeedsMore false).setPhase .done).deliver := by rw [endImplode, hu]
  rw [ubits, outBits_of_empty fcursor] at fbits
  rw [hend]
  generalize u.flush = v at fcursor fbits fframe ⊢
  rw [fcursor, uframe] at fframe
  exact ⟨v.output, (8 - u.bc.bitsFilled.toNat) % 8, by rw [fframe]; rfl, Nat.mod_lt _ (by decide), fbits⟩

/-- Settles O53: with every position decided the step is `endImplode`. -/
theorem compressedStreamEnds : Obligations.CompressedStreamEnds := by
  intro s h hl hk ha hph hall
  have ok := h.implode hk
  obtain ⟨ct, ds, -, ready⟩ := emitting ok h.spaces (by simp [hph])
  obtain ⟨-, ended, -, -⟩ := h.control.finish ha
  have decided : s.canDecide = false := by simp [State.canDecide, hall]
  obtain ⟨o, pad, hend, hpad, hbits⟩ := endImplode_spec ready
  refine ⟨(s.imploded o).deliver, o.mem.bytes, pad, ?_, rfl, rfl, hall, hall.symm.trans ok.window.symm, rfl, ?_, rfl, hpad, hbits⟩
  · rw [step_unbounded hl, engine_impl_finish hk ha]
    simpa [implodeFinish, hph, decided] using hend
  · simp [ended]

end Machine

end Sys2Proof

/-! PROOFS. O28, O30, O32 to O34 and O52: the CodeTable, the generated tables, the three alphabets, and the two codes of a
match. -/

namespace Sys2Proof

open Machine

/-! ## Length and distance decode (R154, R155) -/

/-- Settles O32: `LENLUT` selects the one bucket whose code stands first. -/
theorem lengthDecodeByPrefix : Obligations.LengthDecodeByPrefix := by
  intro ct bs
  obtain ⟨i, hi, hlut, hnat, hcode, hunique⟩ := lenLut_select bs
  refine ⟨i, hi, hcode, hunique, ?_⟩
  cases hskip : skipBits (romAt lenBits i) bs with
  | none => simp only [decode, decodeSymbol_one, decodeLength, explodeTables, hlut, hnat, hskip]
  | some after =>
    cases htake : takeBits (romAt exLenBits i) after with
    | none => simp only [decode, decodeSymbol_one, decodeLength, explodeTables, hlut, hnat, hskip, htake]
    | some field =>
      simp only [decode, decodeSymbol_one, decodeLength, explodeTables, hlut, hnat, hskip, htake]
      exact lengthItem_eq hi (takeBits_lt htake) field.2

/-- Settles O33: `DISTLUT` selects the one index whose code stands first. -/
theorem distanceDecodeByPrefix : Obligations.DistanceDecodeByPrefix := by
  intro ct w bs
  obtain ⟨c, hc, hlut, hnat, hcode, hunique⟩ := distLut_select bs
  refine ⟨c, hc, hcode, hunique, ?_⟩
  cases hskip : skipBits (romAt distBits c) bs with
  | none => simp only [decode, decodeDistance, explodeTables, hlut, hnat, hskip]
  | some after =>
    cases htake : takeBits (widthBits w) after <;>
      simp only [decode, decodeDistance, explodeTables, hlut, hnat, hskip, htake]

namespace Machine

/-! ## The match an IMPLODE engine emits (R270) -/

/-- Settles O52: the match emitted is that of the bucket and extra value which the length has. -/
theorem emitMatchResult : Obligations.EmitMatchResult := by
  intro s ds len off h hk hph hds h2 h518 hthere h1 hoff
  have ok := h.implode hk
  obtain ⟨ct, -, -, ready⟩ := emitting ok h.spaces (by rcases hph with hph | hph <;> simp [hph])
  have hpos := ok.ipos_le
  obtain ⟨i, e, hi, he, hne, rfl⟩ := matchLength_exists h2 h518
  have hindex : (off - 1) >>> widthBits (distWidth s.len2Short (matchLength i e) ds) < 64 := by
    rw [Nat.shiftRight_eq_div_pow]
    exact Nat.div_lt_of_lt_mul (by omega)
  obtain ⟨t, low, hemit, hwidth, hoffset, hframe, ready', hbits, hwin, hmoved⟩ :=
    emitMatch_spec ready ds hi he hne h1 hindex (by omega)
  have hlen := item_len hi he
  have hdist := item_dist hindex low
  refine ⟨t, .len i e, .dist _ low, i, e, _, low, hemit, hlen, ?_, rfl, hdist, hwidth, hoffset, ?_, hframe, ?_, hmoved, hwin⟩
  · rw [Instr.WellFormed, hlen]
    exact wf_of_inRange ⟨hi, he, hne⟩
  · rw [encode, encode, hlen, hdist, hbits]
  · rw [ready'.window, hframe, ready.window]

/-! ## The CodeTable (R149 to R153) -/

theorem codeTable_literal_entry (ct : CType) {b : Nat} (hb : b < 256) : (codeTable ct)[b]? = some (literalEntry ct b) := by
  rw [codeTable, List.getElem?_append_left (by simpa using hb), List.getElem?_map, List.getElem?_range hb, Option.map_some]

/-- The entries of the buckets before bucket `i` are `LenBase[i]` many (R143). -/
theorem lengthEntries_before {i : Nat} (hi : i < 16) :
    ((List.range i).flatMap fun j => (List.range (1 <<< romAt exLenBits j)).map (lengthEntry j)).length = lenBase i := by
  have h : ∀ i : Fin 16, ((List.range i).map fun j => 1 <<< romAt exLenBits j).sum = lenBase i := by decide
  simpa [List.length_flatMap] using h ⟨i, hi⟩

theorem lengthEntries_bucket {i e : Nat} (hi : i < 16) (he : e < 1 <<< romAt exLenBits i) :
    lengthEntries[lenBase i + e]? = some (lengthEntry i e) := by
  obtain ⟨k, hk⟩ : ∃ k, 16 = i + (k + 1) := ⟨15 - i, by omega⟩
  rw [lengthEntries, hk, List.range_add, List.range_succ_eq_map, List.flatMap_append,
    ← lengthEntries_before hi, List.getElem?_append_right (by omega), Nat.add_sub_cancel_left, List.map_cons, List.flatMap_cons,
    List.getElem?_append_left (by simpa using he)]
  simp [he]

/-- Settles O28: the table is its literals' entries and then its buckets' entries, one bucket after another. -/
theorem codeTableEntries : Obligations.CodeTableEntries := by
  have hbucket (ct : CType) (i e : Nat) (hi : i < 16) (he : e < 1 <<< romAt exLenBits i) :
      (codeTable ct)[0x100 + lenBase i + e]? = some (lengthEntry i e) := by
    rw [Nat.add_assoc, codeTable_length_entry, lengthEntries_bucket hi he]
  refine ⟨fun b => codeTable_literal_entry .binary, fun b => codeTable_literal_entry .ascii, hbucket,
    fun ct => ⟨codeTable_length ct, ?_⟩⟩
  exact hbucket ct 15 255 (by decide) (by decide)

/-! ## The generated tables (R171, R172, R174) -/

/-- The iterator stops at its limit (R170). -/
theorem patIterator_lt {limit step seed index next : Nat} (h : patIterator limit step seed = some (index, next)) :
    index < limit := by
  rw [patIterator] at h
  split at h
  · cases h
  · cases h
    omega

theorem patUnfold_lt {limit step fuel seed x : Nat} (h : x ∈ patUnfold limit step fuel seed) : x < limit := by
  induction fuel generalizing seed with
  | zero => simp [patUnfold] at h
  | succ fuel ih =>
    rw [patUnfold] at h
    split at h
    · simp at h
    · rename_i index next hnext
      rcases List.mem_cons.1 h with rfl | hlater
      · exact patIterator_lt hnext
      · exact ih hlater

theorem populateAsciiTable_lt {bits symbol base limit x : Nat} (h : x ∈ populateAsciiTable bits symbol base limit) :
    x < limit := by
  unfold populateAsciiTable at h
  split at h
  · simp at h
  · split at h
    · simp at h
    · exact patUnfold_lt h

/-- The sizes of R175. -/
theorem asciiTables_sizes : asciiTables.t2c34.length = 0x100 ∧ asciiTables.t2d34.length = 0x100
    ∧ asciiTables.t2e34.length = 0x80 ∧ asciiTables.t2eb4.length = 0x100 ∧ asciiTables.chBits.length = 0x100 := by
  decide +kernel

/-- Settles O30: the generators' contents are those printed, and an index of the iterator is below its limit. -/
theorem generatedTablesArePrinted : Obligations.GeneratedTablesArePrinted := by
  obtain ⟨h2c34, h2d34, h2e34, h2eb4, hchBits⟩ := asciiTables_sizes
  exact ⟨generateAsciiTables_eq, h2c34, h2d34, h2e34, h2eb4, hchBits, fillSlots_len, fillSlots_dist,
    fun _ _ _ _ _ => populateAsciiTable_lt⟩

/-! ## The three alphabets (R148) -/

/-- Where no bits are those of two codes, no code is the beginning of another. -/
theorem prefixFree_of_unique {bits code : List Nat} {count width x y : Nat} (hx : x < count) (hy : y < count)
    (hfits : romAt code y < 2 ^ romAt bits y ∧ romAt bits y ≤ width)
    (hunique : ∀ p < 2 ^ width, ∃ i, ∀ j < count, p % 2 ^ romAt bits j = romAt code j → j = i)
    (hne : x ≠ y) : romAt code y % 2 ^ romAt bits x ≠ romAt code x := by
  obtain ⟨hcode, hwidth⟩ := hfits
  obtain ⟨i, hi⟩ := hunique (romAt code y) (hcode.trans_le (Nat.pow_le_pow_right (by decide) hwidth))
  intro hbegins
  exact hne ((hi x hx hbegins).trans (hi y hy (Nat.mod_eq_of_lt hcode)).symm)

theorem lenCode_unique (p : Nat) (hp : p < 2 ^ 8) :
    ∃ i, ∀ j < 16, p % 2 ^ romAt lenBits j = romAt lenCode j → j = i := by
  obtain ⟨i, -, -, hunique⟩ := lenLut_slots ⟨p, hp⟩
  exact ⟨i, fun j hj h => congrArg Fin.val (hunique ⟨j, hj⟩ h)⟩

theorem distCode_unique (p : Nat) (hp : p < 2 ^ 8) :
    ∃ c, ∀ j < 64, p % 2 ^ romAt distBits j = romAt distCode j → j = c := by
  obtain ⟨c, -, -, hunique⟩ := distLut_slots ⟨p, hp⟩
  exact ⟨c, fun j hj h => congrArg Fin.val (hunique ⟨j, hj⟩ h)⟩

theorem chCodeAsc_unique (p : Nat) (hp : p < 2 ^ 13) :
    ∃ v, ∀ j < 256, p % 2 ^ romAt chBitsAsc j = romAt chCodeAsc j → j = v := by
  obtain ⟨-, v, -, -, -, hunique⟩ := asciiSelect_spec hp
  refine ⟨v.toNat, fun j hj h => ?_⟩
  have hnat : (BitVec.ofNat 8 j).toNat = j := by rw [BitVec.toNat_ofNat, Nat.mod_eq_of_lt hj]
  rw [← hunique (BitVec.ofNat 8 j) (by rwa [hnat]), hnat]

theorem canonicalCodes_chBitsAsc : canonicalCodes chBitsAsc = chCodeAsc := by decide +kernel

/-- The example of R148 has no match of length 2, so the width of its distances does not matter. -/
theorem explode_publishedExample (len2Short : Bool) :
    explodeStream len2Short [0x00, 0x04, 0x82, 0x24, 0x25, 0x8F, 0x80, 0x7F]
      = .ok [0x41, 0x49, 0x41, 0x49, 0x41, 0x49, 0x41, 0x49, 0x41, 0x49, 0x41, 0x49, 0x41] := by
  cases len2Short <;> decide +kernel

/-- Settles O34: prefix-freeness from the lookup tables' uniqueness, the rest by evaluation. -/
theorem alphabetsCompleteAndPrefixFree : Obligations.AlphabetsCompleteAndPrefixFree := by
  refine ⟨by decide, by decide, by decide +kernel, fun x y hx hy hne _ => ?_, fun x y hx hy hne _ => ?_,
    fun x y hx hy hne _ => ?_, by decide +kernel, by decide +kernel, canonicalCodes_chBitsAsc, explode_publishedExample⟩
  · have hfits := len_rom_fits hy
    exact prefixFree_of_unique hx hy ⟨hfits.2, by omega⟩ lenCode_unique hne
  · exact prefixFree_of_unique hx hy (dist_rom_fits ⟨y, hy⟩).symm distCode_unique hne
  · exact prefixFree_of_unique hx hy (ascii_rom_fits ⟨y, hy⟩).symm chCodeAsc_unique hne

end Machine

end Sys2Proof

/-! PROOFS. O29 and O31: the enumeration of the prefix-allocation iterator, and the ASCII literal decode. -/

namespace Sys2Proof

namespace Machine

/-! ## The prefix-allocation iterator (R170, R171) -/

theorem patIterator_of_le {limit step seed : Nat} (h : limit ≤ seed) : patIterator limit step seed = none := if_pos h

theorem patIterator_of_lt {limit step seed : Nat} (h : seed < limit) :
    patIterator limit step seed = some (seed, seed + (1 <<< step)) := if_neg (Nat.not_le.2 h)

theorem patUnfold_of_le {limit seed : Nat} (step fuel : Nat) (h : limit ≤ seed) : patUnfold limit step fuel seed = [] := by
  cases fuel with
  | zero => rfl
  | succ fuel => simp only [patUnfold, patIterator_of_le h]

theorem patUnfold_of_lt {limit seed : Nat} (step fuel : Nat) (h : seed < limit) :
    patUnfold limit step (fuel + 1) seed = seed :: patUnfold limit step fuel (seed + 2 ^ step) := by
  simp only [patUnfold, patIterator_of_lt h, Nat.one_shiftLeft]

/-- The terms of a progression are its first term and those of the progression from its second. -/
theorem exists_progression_iff {seed stride x : Nat} :
    (∃ k, x = seed + k * stride) ↔ x = seed ∨ ∃ k, x = seed + stride + k * stride := by
  constructor
  · rintro ⟨_ | k, rfl⟩
    · exact .inl (by simp)
    · exact .inr ⟨k, by rw [Nat.add_one_mul]; omega⟩
  · rintro (rfl | ⟨k, rfl⟩)
    · exact ⟨0, by simp⟩
    · exact ⟨k + 1, by rw [Nat.add_one_mul]; omega⟩

theorem not_progression_lt_of_le {limit seed stride x : Nat} (h : limit ≤ seed) :
    ¬ (x < limit ∧ ∃ k, x = seed + k * stride) := by
  rintro ⟨hx, k, rfl⟩
  omega

/-- Each round adds at least 1 to the seed, so fuel that covers the distance to the limit is never used up. -/
theorem mem_patUnfold {limit step fuel seed x : Nat} (hfuel : limit ≤ seed + fuel) :
    x ∈ patUnfold limit step fuel seed ↔ x < limit ∧ ∃ k, x = seed + k * 2 ^ step := by
  induction fuel generalizing seed with
  | zero => exact iff_of_false List.not_mem_nil (not_progression_lt_of_le hfuel)
  | succ fuel ih =>
    rcases Nat.lt_or_ge seed limit with hlt | hge
    · have hstride : 0 < 2 ^ step := Nat.two_pow_pos step
      rw [patUnfold_of_lt _ _ hlt, List.mem_cons, ih (by omega), exists_progression_iff (seed := seed)]
      constructor
      · rintro (rfl | ⟨hx, hk⟩)
        · exact ⟨hlt, .inl rfl⟩
        · exact ⟨hx, .inr hk⟩
      · rintro ⟨hx, rfl | hk⟩
        · exact .inl rfl
        · exact .inr ⟨hx, hk⟩
    · rw [patUnfold_of_le _ _ hge]
      exact iff_of_false List.not_mem_nil (not_progression_lt_of_le hge)

theorem seed_le_of_mem_patUnfold {limit step fuel seed x : Nat} (h : x ∈ patUnfold limit step fuel seed) : seed ≤ x := by
  induction fuel generalizing seed with
  | zero => cases h
  | succ fuel ih =>
    rcases Nat.lt_or_ge seed limit with hlt | hge
    · rw [patUnfold_of_lt _ _ hlt] at h
      rcases List.mem_cons.1 h with rfl | hlater
      · exact le_rfl
      · exact (Nat.le_add_right _ _).trans (ih hlater)
    · rw [patUnfold_of_le _ _ hge] at h
      cases h

theorem pairwise_patUnfold (limit step fuel seed : Nat) : (patUnfold limit step fuel seed).Pairwise (· < ·) := by
  induction fuel generalizing seed with
  | zero => exact .nil
  | succ fuel ih =>
    rcases Nat.lt_or_ge seed limit with hlt | hge
    · rw [patUnfold_of_lt _ _ hlt]
      refine .cons (fun x hx => ?_) (ih _)
      have := seed_le_of_mem_patUnfold hx
      have := Nat.two_pow_pos step
      omega
    · rw [patUnfold_of_le _ _ hge]
      exact .nil

theorem mem_patEnumerate {limit step seed x : Nat} :
    x ∈ patEnumerate limit step seed ↔ x < limit ∧ ∃ k, x = seed + k * 2 ^ step :=
  mem_patUnfold (Nat.le_add_left limit seed)

/-- A progression from a seed below its stride is the residue class of the seed. -/
theorem exists_progression_iff_mod {seed stride x : Nat} (h : seed < stride) :
    (∃ k, x = seed + k * stride) ↔ x % stride = seed := by
  constructor
  · rintro ⟨k, rfl⟩
    rw [Nat.add_mul_mod_self_right, Nat.mod_eq_of_lt h]
  · rintro rfl
    exact ⟨x / stride, (Nat.mod_add_div' x stride).symm⟩

/-- Settles O29: the unfold of the iterator is the progression, by induction on its fuel. -/
theorem patEnumerationIsTheProgression : Obligations.PatEnumerationIsTheProgression := by
  refine ⟨fun limit step seed => ⟨patIterator_of_le, patIterator_of_lt⟩, fun limit step seed x => mem_patEnumerate,
    fun limit step seed => pairwise_patUnfold limit step limit seed, fun k step seed x h => ?_, by decide, by decide⟩
  rw [mem_patEnumerate, exists_progression_iff_mod h]

/-! ## The literal that the five tables select (R183) -/

/-- Settles O31: 13 peeked bits select the one literal whose code they begin with. -/
theorem asciiDecodeByPrefix : Obligations.AsciiDecodeByPrefix := by
  intro bs
  obtain ⟨skip, v, hselect, hcode, hsize, hunique⟩ := asciiSelect_spec (peekBits_lt 13 bs)
  exact ⟨v, hcode, hunique, by rw [decodeAsciiLiteral_eq, hselect, readSlot_some bs hsize]⟩

end Machine

end Sys2Proof

/-! PROOFS. O17 and O51: the closed form of the copy loop, and the literal an IMPLODE engine emits. -/

namespace Sys2Proof.Machine

/-! ## The copy loop of a match (R193) -/

/-- Settles O17: the closed form of the copy loop, in which `j mod OFF` is `j` for a plain copy and 0 with `OFF = 1`. -/
theorem copyMatchClosedForm : Obligations.CopyMatchClosedForm := by
  intro count off s hs hpos hreach
  obtain ⟨t, hloop, -, -, hlen, -, -, hkept, -, hcopy⟩ := copyBytes_spec count hs hpos hreach
  refine ⟨t, copyMatch_within hreach hloop, hlen, fun j hj => (hcopy j hj).1, fun hplain j hj => ?_, fun hrun j hj => ?_, hkept⟩
  · rw [(hcopy j hj).1, Nat.mod_eq_of_lt (hj.trans_le hplain)]
  · rw [(hcopy j hj).1, hrun, Nat.mod_one, Nat.add_zero]

/-! ## The literal an IMPLODE engine emits (R269) -/

theorem encode_litB (b : Byte) : encode (.litB b) = encodeItem (literalItem .binary b) := rfl

theorem encode_litA (b : Byte) : encode (.litA b) = encodeItem (literalItem .ascii b) := by
  rw [encode, item_litA, literalItem]

/-- Settles O51: the symbol put is the literal item of the type the header names. -/
theorem emitLiteralResult : Obligations.EmitLiteralResult := by
  intro s ct h hk hph hct hthere
  obtain ⟨ct', ds, hhdr, ready⟩ := emitting (h.implode hk) h.spaces (by rcases hph with hph | hph <;> simp [hph])
  obtain rfl : ct = ct' := by simpa [hhdr] using hct.symm
  obtain ⟨t, b, hemit, hread, hframe, ready', hbits, hkept, hmoved⟩ := emitLiteral_spec ready hthere
  refine ⟨t, b, hemit, hread, hframe, ?_, ?_, hmoved, hkept⟩
  · rw [hbits]
    cases ct with
    | binary => rw [encode_litB]
    | ascii => rw [encode_litA]
  · rw [ready'.window, hframe, ready.window]

end Sys2Proof.Machine

/-! PROOFS. O3, O4, O7, O8 and O48: the header codec on byte sequences, and the first steps of both engines. -/

namespace Sys2Proof.Machine

/-! ## The header bytes as bytes (R205, R206, R209) -/

theorem ctypeOf_code (c : CType) : ctypeOf (ctypeCode c) = some c := by cases c <;> rfl

theorem dsizeOf_code (d : DSize) : dsizeOf (dsizeCode d) = some d := by cases d <;> rfl

theorem readHeader_short {bytes : List Byte} (few : bytes.length < Config.hdrMinAvail) :
    readHeader bytes = .error .invalidData := if_pos few

/-- With enough bytes, the first two are checked as the arguments of `createImplodeEngine` are (R205, R292). -/
theorem readHeader_long {bytes : List Byte} (enough : Config.hdrMinAvail ≤ bytes.length) :
    readHeader bytes = creationArguments (bytes.getD 0 0) (bytes.getD 1 0) := if_neg (Nat.not_lt.2 enough)

/-- What `writeHeader` appends to `OUT` (R209). -/
theorem writeHeader_bytes {s : State} (h : SpacesOk s) (ct : CType) (ds : DSize) :
    (writeHeader ct ds s).output.mem.bytes = s.output.mem.bytes ++ [ctypeCode ct, dsizeCode ds] := by
  rw [writeHeader, outAppend_bytes (h.outAppend _), outAppend_bytes h, List.append_assoc]
  rfl

theorem take_two_eq_getD {bytes : List Byte} (h : 2 ≤ bytes.length) : bytes.take 2 = [bytes.getD 0 0, bytes.getD 1 0] := by
  match bytes, h with
  | _ :: _ :: _, _ => rfl

/-- Settles O3: the length, then the checks of `creationArguments` in their order. -/
theorem readHeaderChecksInOrder : Obligations.ReadHeaderChecksInOrder := by
  refine ⟨fun bytes => ⟨readHeader_short, fun enough badType => ?_, fun enough okType badClass => ?_⟩, rfl, rfl, rfl⟩
  · rw [readHeader_long enough, creationArguments_badType badType]
  · rw [readHeader_long enough, creationArguments_badClass okType badClass]

/-- Settles O4: legal bytes are the codes of a type and a class, which `writeHeader` appends. -/
theorem headerBytesRoundTrip : Obligations.HeaderBytesRoundTrip := by
  intro bytes enough okType okClass
  obtain ⟨ct, -, hct⟩ := ctypeOf_some okType
  obtain ⟨ds, -, hds⟩ := dsizeOf_some okClass
  refine ⟨ct, ds, ?_, fun s h => ?_⟩
  · rw [readHeader_long enough, ← hct, ← hds, creationArguments_code]
  · rw [writeHeader_bytes h, hct, hds, take_two_eq_getD (by omega)]

/-! ## An EXPLODE engine reads the two header bytes (R205, R208, R220) -/

/-- With byte 0 read, byte 1 is due. -/
theorem HeaderByteDue.next {s : State} (due : HeaderByteDue none s) (c : CType) :
    HeaderByteDue (some c) { s with hdr := { s.hdr with ctype := some c } } :=
  ⟨due.kind, due.activity, due.eos, due.phase, due.enough, rfl⟩

theorem step_place {s : State} {p : Place} (hl : s.limits = .unbounded) (hp : s.place = some p) :
    step s = afterFetch (s.fetch p) s := (step_unbounded hl).trans (engine_place hp)

section
variable {s : State} {c : CType} {b : Byte}

theorem step_headerByte0_illegal (due : HeaderByteDue none s) (hl : s.limits = .unbounded) (there : 0 < s.input.total)
    (hb : s.input.mem.read 0 = some b) (illegal : ctypeOf b = none) :
    step s = .next (raise .invalidCompressionType s) := by
  rw [step_place hl due.place, fetch_hdr0 hb there, illegal]
  rfl

theorem step_headerByte0_legal (due : HeaderByteDue none s) (hl : s.limits = .unbounded) (there : 0 < s.input.total)
    (hb : s.input.mem.read 0 = some b) (legal : ctypeOf b = some c) :
    step s = .next { s with hdr := { s.hdr with ctype := some c } } := by
  rw [step_place hl due.place, fetch_hdr0 hb there, legal]
  exact (exec_hdr0 c s).trans (acceptHdr0_due due c)

theorem step_headerByte1_illegal (due : HeaderByteDue (some c) s) (hl : s.limits = .unbounded)
    (there : 1 < s.input.total) (hb : s.input.mem.read 1 = some b) (illegal : dsizeOf b = none) :
    step s = .next (raise .invalidDictionarySize s) := by
  rw [step_place hl due.place, fetch_hdr1 hb there, illegal]
  rfl

theorem step_headerByte1_legal {d : DSize} (due : HeaderByteDue (some c) s) (hl : s.limits = .unbounded)
    (there : 1 < s.input.total) (hb : s.input.mem.read 1 = some b) (legal : dsizeOf b = some d) :
    step s = .next { s with
      hdr := { s.hdr with dsize := some d }
      tables := explodeTables c
      ipos := 16
      phase := .streaming } := by
  rw [step_place hl due.place, fetch_hdr1 hb there, legal]
  exact (exec_hdr1 d s).trans (acceptHdr1_due due d)

end

/-- Settles O7: one step for each header byte, as the byte is legal or not. -/
theorem feedReadsTheHeader : Obligations.FeedReadsTheHeader := by
  intro s h hl due
  obtain ⟨there0, b0, hb0⟩ := header_byte_there h due (k := 0) (by decide)
  obtain ⟨there1, b1, hb1⟩ := header_byte_there h due (k := 1) (by decide)
  refine ⟨b0, b1, hb0, hb1, fun badType => ?_, fun okType badClass => ?_, fun ct ds hct hds => ?_⟩
  · exact ⟨_, step_headerByte0_illegal due hl there0 hb0 (ctypeOf_none badType), rfl, rfl⟩
  · obtain ⟨c, hc, -⟩ := ctypeOf_some okType
    exact ⟨_, _, step_headerByte0_legal due hl there0 hb0 hc,
      step_headerByte1_illegal (due.next c) hl there1 hb1 (dsizeOf_none badClass), rfl, rfl⟩
  · subst hct hds
    exact ⟨_, _, step_headerByte0_legal due hl there0 hb0 (ctypeOf_code ct),
      step_headerByte1_legal (due.next ct) hl there1 hb1 (dsizeOf_code ds), rfl⟩

/-! ## An EXPLODE engine waits for 4 bytes (R207) -/

theorem place_none_of_few {s : State} (phase : s.phase = .awaitingHeader) (few : s.input.total < Config.hdrMinAvail) :
    s.place = none := by
  simp [State.place, phase, few]

theorem explodeFeed_few {s : State} (h : Inv s) (kind : s.kind = some .explode) (phase : s.phase = .awaitingHeader)
    (few : s.input.total < Config.hdrMinAvail) : explodeFeed s = .next s.stopForInput := by
  have eos : s.flags.eosSeen = false := (h.headerDue kind phase).2.eos
  simp [explodeFeed, place_none_of_few phase few, explodeEndFeed, eos, phase]

/-- Nothing is dropped while nothing is consumed (R25). -/
theorem Input.dropTo_zero {i : Input} (h : i.base = 0) : i.dropTo 0 = i := by
  obtain ⟨mem, base, total⟩ := i
  obtain rfl : base = 0 := h
  simp [Input.dropTo, Memory.dropBelow]

/-- The end of a `feed` before the header keeps every byte received (R207). -/
theorem stopForInput_input_awaiting {s : State} (h : Inv s) (kind : s.kind = some .explode)
    (phase : s.phase = .awaitingHeader) : s.stopForInput.input = s.input := by
  obtain ⟨-, d⟩ := h.headerDue kind phase
  have consumed : s.consumedBytes = 0 := by simp [State.consumedBytes, kind, d.ipos]
  rw [State.stopForInput_input, consumed, Input.dropTo_zero d.base]

/-- With fewer than 4 bytes no header register has a value (R39, R207). -/
theorem HeaderDue.hdr_of_few {s : State} (d : HeaderDue s) (few : s.input.total < Config.hdrMinAvail) :
    s.hdr = { ctype := none, dsize := none } := by
  have ctype : s.hdr.ctype = none := by
    by_contra hne
    exact Nat.not_le.2 few (d.ctype hne).2
  rw [← ctype, ← d.dsize]

/-- Settles O8: a `feed` stops for input, and a `finish` raises. -/
theorem shortInputIsNotParsed : Obligations.ShortInputIsNotParsed := by
  refine ⟨fun s h hl kind activity phase few => ?_, fun s h hl kind activity phase => ?_⟩
  · obtain ⟨-, d⟩ := h.headerDue kind phase
    have hstep : step s = .next s.stopForInput := by
      rw [step_unbounded hl, engine_feed kind activity, explodeFeed_few h kind phase few]
    have input := stopForInput_input_awaiting h kind phase
    refine ⟨_, hstep, phase, rfl, h.err_none (by simp [phase]), rfl, d.hdr_of_few few, rfl, fun a => by rw [input], ?_⟩
    rw [State.stopForInput_replies, d.nothing.1]
    rfl
  · obtain ⟨-, d⟩ := h.headerDue kind phase
    have hstep : step s = .next (raise .invalidData s) := by
      rw [step_unbounded hl, engine_finish kind activity, explodeFinish, phase]
    exact ⟨d.few (by simp [activity]), _, hstep, rfl, rfl, rfl⟩

/-! ## An IMPLODE engine starts its stream (R261) -/

/-- The first step is the same in a `feed` and in a `finish` (R260). -/
theorem engine_startImplode {s : State} (kind : s.kind = some .implode) (busy : s.activity ≠ .idle)
    (phase : s.phase = .awaitingHeader) : engineStep s = startImplode s := by
  cases activity : s.activity with
  | idle => exact absurd activity busy
  | feed => rw [engine_impl_feed kind activity, implodeFeed, phase]
  | finish => rw [engine_impl_finish kind activity, implodeFinish, phase]

/-- Settles O48: the step is `startImplode` with the header of the engine's creation. -/
theorem implodeStreamStarts : Obligations.ImplodeStreamStarts := by
  intro s h hl kind busy phase
  obtain ⟨ct, ds, hdr, -⟩ := (h.implode kind).header
  have hstep : step s = .next { writeHeader ct ds s with tables := implodeTables ct, phase := .streaming } := by
    rw [step_unbounded hl, engine_startImplode kind busy phase, startImplode, hdr]
  exact ⟨_, ct, ds, hdr, hstep, rfl, writeHeader_bytes h.spaces ct ds, rfl⟩

end Sys2Proof.Machine

/-! PROOFS. O14, O46 and O47: a distance beyond the bytes produced, and the EXPLODE engine after EOS. -/

namespace Sys2Proof.Machine

/-! ## A distance beyond the bytes produced (R233) -/

/-- Settles O14: the DIST part hands `raise` the state it would copy from. -/
theorem distanceBeyondProducedFails : Obligations.DistanceBeyondProducedFails := by
  intro i c low m ds s hi due hw hfar
  refine ⟨raise .malformedSymbol (s.atCopy m c low), ?_, rfl, rfl, rfl, rfl, rfl, rfl⟩
  rw [exec_eq_execItem, hi]
  exact distancePart_beyond due hw hfar

/-! ## The beginning of a transaction (R293, R294) -/

section
variable {s : State} {rest : List Request} (hl : s.limits = .unbounded) (live : s.kind ≠ none) (idle : s.activity = .idle)
  (alive : s.phase ≠ .failed) (ended : s.flags.streamEnded = false)
include hl live idle alive ended

theorem step_beginFeed {chunk : List Byte} (hr : s.requests = .feed chunk :: rest) (bytes : chunk ≠ []) :
    step s = .next (s.feeding rest (s.input.receive chunk)) := by
  rw [step_unbounded hl, idle_req idle hr]
  exact accept_feed (s := { s with requests := rest }) live alive ended bytes

theorem step_beginFinish (hr : s.requests = .finish :: rest) :
    step s = .next (State.beginFinish { s with requests := rest }) := by
  rw [step_unbounded hl, idle_req idle hr]
  exact accept_finish (s := { s with requests := rest }) live alive ended

end

/-! ## A streaming EXPLODE engine after EOS, and its `finish` (R230, R236) -/

section
variable {s : State} (hl : s.limits = .unbounded) (kind : s.kind = some .explode)
include hl kind

theorem step_afterEos (activity : s.activity = .feed) (eos : s.flags.eosSeen = true) :
    step s = .next (s.setNeedsMore false).deliver := (step_unbounded hl).trans (engine_after_eos kind activity eos)

theorem step_startFlushing (activity : s.activity = .finish) (phase : s.phase = .streaming) :
    step s = .next (s.setPhase .flushing) := (step_unbounded hl).trans (engine_fin_streaming kind activity phase)

theorem step_done (activity : s.activity = .finish) (phase : s.phase = .flushing) (eos : s.flags.eosSeen = true) :
    step s = .next (s.setPhase .done).deliver := by
  rw [step_unbounded hl, engine_fin_flushing kind activity phase, if_pos eos]

theorem step_truncated (activity : s.activity = .finish) (phase : s.phase = .flushing) (eos : s.flags.eosSeen = false) :
    step s = .next (raise .truncatedStream s) := by
  rw [step_unbounded hl, engine_fin_flushing kind activity phase, if_neg (by simp [eos])]

end

theorem Output.emptied {o : Output} (h : o.mem = []) : { o with mem := [] } = o := by rw [← h]

/-- Settles O46: the chunk is taken in, and with EOS seen the transaction ends at once. -/
theorem nothingDecodedAfterEos : Obligations.NothingDecodedAfterEos := by
  intro s chunk rest h hl kind idle phase eos hr bytes
  have hbegin := step_beginFeed hl (by simp [kind]) idle (by simp [phase]) (not_ended h idle phase) hr bytes
  have hend := step_afterEos (s := s.feeding rest (s.input.receive chunk)) hl kind rfl eos
  obtain ⟨nothing, noPending, -⟩ := h.control.idle idle
  refine ⟨_, _, hbegin, hend, ?_⟩
  simp [State.deliver, State.setNeedsMore, State.reply, State.feeding, Output.emptied nothing, nothing, noPending, idle,
    Memory.bytes]

/-- Settles O47: `Flushing` decides by EOS between `Done` and the error. -/
theorem finishOfExplodeEngine : Obligations.FinishOfExplodeEngine := by
  intro s rest h hl kind idle phase hr
  have hbegin := step_beginFinish hl (by simp [kind]) idle (by simp [phase]) (not_ended h idle phase) hr
  let u := State.beginFinish { s with requests := rest }
  have hflush : step u = .next (u.setPhase .flushing) := step_startFlushing hl kind rfl phase
  have nothing : s.output.mem = [] := (h.control.idle idle).1
  cases eos : s.flags.eosSeen with
  | true =>
    have hend := step_done (s := u.setPhase .flushing) hl kind rfl rfl eos
    refine ⟨u, u.setPhase .flushing, _, hbegin, hflush, rfl, hend, fun _ => ?_, by simp⟩
    simp [u, eos, nothing, Memory.bytes, h.err_none (by simp [phase])]
  | false =>
    have hend := step_truncated (s := u.setPhase .flushing) hl kind rfl rfl eos
    refine ⟨u, u.setPhase .flushing, _, hbegin, hflush, rfl, hend, by simp, fun _ => ?_⟩
    simp [u]

end Sys2Proof.Machine

/-! PROOFS. O60: decoding a compressed stream gives the input back. -/

namespace Sys2Proof.Machine

/-! ## The symbols of a stream, item by item (R237) -/

/-- The decode of all the symbols that are left, `out` being produced already. -/
def explodeRest (len2Short : Bool) (ct : CType) (ds : DSize) (bits : Bits) (out : List Byte) : Except ErrorKind (List Byte) :=
  explodeSymbols len2Short ct ds (bits.length + 1) bits out

/-- `explode(S)` behind a legal header (R208, R237). -/
theorem explodeStream_of_header {bytes : List Byte} {ct : CType} {ds : DSize} (h : readHeader bytes = .ok (ct, ds))
    (len2Short : Bool) : explodeStream len2Short bytes = explodeRest len2Short ct ds ((bytesBits bytes).drop 16) [] := by
  rw [explodeStream, h]
  exact explodeSymbols_fuel len2Short ct ds _ _ _ _ (by simp) (by omega)

theorem explodeStream_of_badHeader {bytes : List Byte} {e : ErrorKind} (h : readHeader bytes = .error e) (len2Short : Bool) :
    explodeStream len2Short bytes = .error e := by rw [explodeStream, h]

theorem tablesAt_symbol (ct : CType) : tablesAt ct (.symbol ct) := fun _ h => (Place.symbol.inj h).symm

theorem tablesAt_distance (ct : CType) (w : DistWidth) : tablesAt ct (.distance w) := nofun

theorem literalItem_stands (ct : CType) (b : Byte) : canStand (literalItem ct b) (.symbol ct) := by cases ct <;> rfl

theorem literalItem_inRange (ct : CType) (b : Byte) : (literalItem ct b).inRange := by cases ct <;> trivial

theorem item_len_inRange {i e : Nat} (h : (Item.len i e).inRange) : (Instr.len i e).item = .len i e := item_ofItem h

section
variable (len2Short : Bool) (ct : CType) (ds : DSize) (rest : Bits) (out : List Byte)

theorem explodeRest_literal (b : Byte) : explodeRest len2Short ct ds (encodeItem (literalItem ct b) ++ rest) out
    = explodeRest len2Short ct ds rest (out ++ [b]) := by
  have range := literalItem_inRange ct b
  have hd := decode_encodeItem range (literalItem_stands ct b) (tablesAt_symbol ct) rest
  have hless := symbol_bits_pos hd (tablesAt_symbol ct)
  rw [explodeRest, explodeSymbols, hd, explodeRest,
    ← explodeSymbols_fuel len2Short ct ds _ _ rest _ hless (Nat.lt_succ_self rest.length)]
  simp only [item_ofItem range]
  cases ct <;> rfl

theorem explodeRest_eos : explodeRest len2Short ct ds (encodeItem .eos ++ rest) out = .ok out := by
  rw [explodeRest, explodeSymbols, decode_encodeItem (item := .eos) trivial ⟨ct, rfl⟩ (tablesAt_symbol ct)]
  rfl

/-- The bits hold no whole symbol (R104, R228). -/
theorem explodeRest_short {bits : Bits} (h : decode (explodeTables ct) (.symbol ct) bits = .needMore) :
    explodeRest len2Short ct ds bits out = .error .truncatedStream := by
  rw [explodeRest, explodeSymbols, h]

section
variable {len2Short ct ds rest out} {i e : Nat} (hlen : (Item.len i e).inRange)
include hlen

/-- The LEN part is whole and its DIST part is not (R228). -/
theorem explodeRest_len_short
    (h : decode (explodeTables ct) (.distance (distWidth len2Short (matchLength i e) ds)) rest = .needMore) :
    explodeRest len2Short ct ds (encodeItem (.len i e) ++ rest) out = .error .truncatedStream := by
  rw [explodeRest, explodeSymbols, decode_encodeItem hlen ⟨ct, rfl⟩ (tablesAt_symbol ct)]
  simp only [Instr.ofItem, item_len_inRange hlen, h]

variable {c : Nat} {low : DistLow} (hc : c < 64) (hw : lowWidth low = distWidth len2Short (matchLength i e) ds)
include hc hw

/-- A match that reaches before the first byte (R233). -/
theorem explodeRest_match_far (hfar : out.length < matchOffset c low) :
    explodeRest len2Short ct ds (encodeItem (.len i e) ++ (encodeItem (.dist c low) ++ rest)) out
      = .error .malformedSymbol := by
  have hdist := decode_encodeItem (item := .dist c low) hc rfl (tablesAt_distance ct _) rest
  rw [hw] at hdist
  rw [explodeRest, explodeSymbols, decode_encodeItem hlen ⟨ct, rfl⟩ (tablesAt_symbol ct)]
  simp only [Instr.ofItem, item_len_inRange hlen, hdist, item_dist hc, if_pos hfar]

/-- A match appends its copy (R193, R226). -/
theorem explodeRest_match (hnear : matchOffset c low ≤ out.length) :
    explodeRest len2Short ct ds (encodeItem (.len i e) ++ (encodeItem (.dist c low) ++ rest)) out
      = explodeRest len2Short ct ds rest (out ++ copied out (matchLength i e) (matchOffset c low)) := by
  have hd := decode_encodeItem hlen ⟨ct, rfl⟩ (tablesAt_symbol ct) (encodeItem (.dist c low) ++ rest)
  have hdist := decode_encodeItem (item := .dist c low) hc rfl (tablesAt_distance ct _) rest
  have hless := (symbol_bits_pos hdist (tablesAt_distance ct _)).trans (symbol_bits_pos hd (tablesAt_symbol ct))
  rw [hw] at hdist
  rw [explodeRest, explodeSymbols, hd, explodeRest,
    ← explodeSymbols_fuel len2Short ct ds _ _ rest _ hless (Nat.lt_succ_self rest.length)]
  simp only [Instr.ofItem, item_len_inRange hlen, hdist, item_dist hc, if_neg (Nat.not_lt.2 hnear)]

end
end

/-! ## The symbols of a compressed stream, item by item (R277) -/

/-- The bits from position `p` on. -/
def implodeRest (len2Short : Bool) (ct : CType) (ds : DSize) (bytes : List Byte) (p : Nat) : Bits :=
  implodeSymbols len2Short ct ds bytes (bytes.length - p) p

theorem implodeStream_eq (len2Short : Bool) (ct : CType) (ds : DSize) (bytes : List Byte) :
    implodeStream len2Short ct ds bytes = headerBytes ct ds ++ packBits (implodeRest len2Short ct ds bytes 0) := rfl

section
variable (len2Short : Bool) (ct : CType) {ds : DSize} {bytes : List Byte} {p : Nat}

theorem implodeRest_end (h : bytes.length ≤ p) : implodeRest len2Short ct ds bytes p = encodeItem .eos := by
  rw [implodeRest, Nat.sub_eq_zero_of_le h]
  exact symbolBits_eos ct

theorem implodeRest_literal (h : p < bytes.length)
    (none : ¬ Config.minLen ≤ ((wholeInput bytes).findMatch (windowReach ds) p).1) :
    implodeRest len2Short ct ds bytes p
      = encodeItem (literalItem ct bytes[p]) ++ implodeRest len2Short ct ds bytes (p + 1) := by
  obtain ⟨n, hn⟩ := Nat.exists_eq_add_of_lt h
  rw [implodeRest, show bytes.length - p = n + 1 by omega, implodeSymbols, if_pos h]
  simp only [if_neg none, ← symbolBits_literal, implodeRest, show bytes.length - (p + 1) = n by omega,
    List.getD_eq_getElem _ _ h]

/-- A match found is its LEN and its DIST item (R268, R270). -/
theorem implodeRest_match (h : p < bytes.length) {i e : Nat} (hlen : (Item.len i e).inRange)
    (len : matchLength i e = ((wholeInput bytes).findMatch (windowReach ds) p).1) {c : Nat} {low : DistLow}
    (hw : lowWidth low = distWidth len2Short (matchLength i e) ds)
    (off : matchOffset c low = ((wholeInput bytes).findMatch (windowReach ds) p).2) :
    implodeRest len2Short ct ds bytes p = encodeItem (.len i e)
      ++ (encodeItem (.dist c low) ++ implodeRest len2Short ct ds bytes (p + matchLength i e)) := by
  obtain ⟨n, hn⟩ := Nat.exists_eq_add_of_lt h
  obtain ⟨hi, he, hne⟩ := hlen
  have hmin : Config.minLen ≤ matchLength i e := (len_range hi he hne).1
  have hpos : 0 < matchLength i e := hmin.trans_lt' (by decide)
  have hsym : lengthSymbol (matchLength i e) = 0x100 + (lenBase i + e) := by
    simp only [lengthSymbol, matchLength]; omega
  obtain ⟨hc, hlow⟩ := (matchOffset_eq_iff (matchOffset_pos c low)).1 rfl
  rw [implodeRest, show bytes.length - p = n + 1 by omega, implodeSymbols, if_pos h]
  simp only [← len, ← off, if_pos hmin, hsym, symbolBits_length ct hi he, if_neg hne, distanceBits_eq, ← hw, Nat.shiftRight_eq_div_pow, ← hc, ← hlow,
    lowOf_lowValue, List.append_assoc, implodeRest]
  rw [implodeSymbols_rounds len2Short ct ds bytes n (bytes.length - (p + matchLength i e)) _ (by omega) (Nat.le_refl _)]

end

/-! ## O60 -/

/-- What the compressor puts from position `p` on, with any bits behind it, decodes to the bytes from `p` on (R239). -/
theorem explodeRest_implodeRest (len2Short : Bool) (ct : CType) (ds : DSize) (bytes : List Byte) (pad : Bits) (p : Nat)
    (hp : p ≤ bytes.length) :
    explodeRest len2Short ct ds (implodeRest len2Short ct ds bytes p ++ pad) (bytes.take p) = .ok bytes := by
  induction hn : bytes.length - p using Nat.strongRecOn generalizing p with
  | ind n ih =>
    obtain hlast | hlt := Nat.eq_or_lt_of_le hp
    · rw [implodeRest_end _ _ (Nat.le_of_eq hlast.symm), explodeRest_eos, hlast, List.take_length]
    · by_cases hfound : Config.minLen ≤ ((wholeInput bytes).findMatch (windowReach ds) p).1
      · obtain ⟨i, e, hi, he, hne, hlen, hmin, hle, hpos, hreach, hidx, hcopy⟩ := wholeMatch bytes ds p hp len2Short hfound
        have hw := lowWidth_lowOf (distWidth len2Short (matchLength i e) ds)
          ((((wholeInput bytes).findMatch (windowReach ds) p).2 - 1) % 2 ^ widthBits (distWidth len2Short (matchLength i e) ds))
        have hoff := matchOffset_lowOf (distWidth len2Short (matchLength i e) ds) hpos
        rw [implodeRest_match len2Short ct hlt ⟨hi, he, hne⟩ hlen hw hoff, List.append_assoc, List.append_assoc,
          explodeRest_match ⟨hi, he, hne⟩ hidx hw (by simpa [hoff, hp] using hreach), hoff, hcopy]
        exact ih _ (by omega) _ hle rfl
      · rw [implodeRest_literal len2Short ct hlt hfound, List.append_assoc, explodeRest_literal, List.take_concat_get' _ _ hlt]
        exact ih _ (by omega) _ hlt rfl

/-- Every compressed stream has the bits of EOS (R271). -/
theorem implodeSymbols_length (len2Short : Bool) (ct : CType) (ds : DSize) (bytes : List Byte) (rounds p : Nat) :
    16 ≤ (implodeSymbols len2Short ct ds bytes rounds p).length := by
  have heos : (symbolBits ct Config.eosSym).length = 16 := by rw [symbolBits_eos, encodeItem_length, itemBits]
  induction rounds generalizing p with
  | zero => exact heos.ge
  | succ rounds ih =>
    rw [implodeSymbols]
    split
    · dsimp only
      split <;> rw [List.length_append] <;> exact (ih _).trans (Nat.le_add_left _ _)
    · exact heos.ge

/-- The stream has its header, and at least the 16 bits of EOS behind it (R206, R209). -/
theorem readHeader_implodeStream (len2Short : Bool) (ct : CType) (ds : DSize) (bytes : List Byte) :
    readHeader (implodeStream len2Short ct ds bytes) = .ok (ct, ds) := by
  obtain ⟨pad, -, hpad⟩ := bytesBits_packBits (implodeRest len2Short ct ds bytes 0)
  have hlong := congrArg List.length hpad
  have heos : 16 ≤ (implodeRest len2Short ct ds bytes 0).length := implodeSymbols_length _ _ _ _ _ _
  rw [bytesBits_length, List.length_append] at hlong
  have enough : 4 ≤ (implodeStream len2Short ct ds bytes).length := by
    rw [implodeStream_eq, List.length_append, show (headerBytes ct ds).length = 2 from rfl]
    omega
  rw [readHeader_long enough]
  exact creationArguments_code ct ds

/-- Settles O60: the symbols decode to the input, whatever zero bits complete the last byte. -/
theorem explodeOfImplodeIsIdentity : Obligations.ExplodeOfImplodeIsIdentity := by
  intro len2Short ct ds bytes
  obtain ⟨pad, -, hpad⟩ := bytesBits_packBits (implodeRest len2Short ct ds bytes 0)
  have hbits : (bytesBits (implodeStream len2Short ct ds bytes)).drop 16
      = implodeRest len2Short ct ds bytes 0 ++ List.replicate pad false := by
    rw [implodeStream_eq, bytesBits_append, hpad]
    exact List.drop_left' (bytesBits_length _)
  rw [explodeStream_of_header (readHeader_implodeStream len2Short ct ds bytes), hbits]
  exact explodeRest_implodeRest len2Short ct ds bytes _ 0 (Nat.zero_le _)

end Sys2Proof.Machine

/-! PROOFS. What the sessions of both engines share: the bytes received, the records returned, and an engine's parameters from
step to step (R238, R276). -/

namespace Sys2Proof.Machine

/-! ## The bytes received (R25) -/

/-- The bytes received so far are `S`, and `IN` holds them from `IN_BASE` on. -/
structure Input.Received (i : Input) (S : List Byte) : Prop where
  total : i.total = S.length
  bytes : ∀ a, i.base ≤ a → i.mem.read a = S[a]?

theorem Input.Received.receive {i : Input} {S : List Byte} (h : i.Received S) (chunk : List Byte) :
    (i.receive chunk).Received (S ++ chunk) := by
  obtain ⟨base, total, new, old⟩ := Input.receive_spec i chunk
  rw [h.total] at total new old
  refine ⟨by rw [total, List.length_append], fun a ha => ?_⟩
  rw [base] at ha
  obtain hold | hnew := Nat.lt_or_ge a S.length
  · rw [old a (.inl hold), h.bytes a ha, List.getElem?_append_left hold]
  · rw [List.getElem?_append_right hnew]
    obtain hin | hout := Nat.lt_or_ge a (S.length + chunk.length)
    · rw [← new _ (by omega), Nat.add_sub_cancel' hnew]
    · rw [old a (.inr hout), h.bytes a ha, List.getElem?_eq_none hnew, List.getElem?_eq_none (by omega)]

theorem Input.Received.dropTo {s : State} {S : List Byte} (h : s.input.Received S) (spaces : SpacesOk s) (k : Nat) :
    (s.input.dropTo k).Received S := by
  obtain ⟨base, -, -, bytes⟩ := Input.dropTo_spec s.input k spaces.base_le spaces.input
  exact ⟨h.total, fun a ha => by rw [bytes a ha, h.bytes a (base.trans ha)]⟩

/-! ## The records returned (R229, R273) -/

/-- The records after `r0` have no error; their bytes, and the bits that `OUT` and the cursor still hold, are `bits`. -/
def Returned (r0 : List Reply) (bits : Bits) (s : State) : Prop :=
  ∃ records, s.replies = r0 ++ records ∧ (∀ r ∈ records, r.error = none)
    ∧ bytesBits (outputs records) ++ s.outBits = bits

section
variable {r0 : List Reply} {bits : Bits} {s t : State}

theorem Returned.advance (h : Returned r0 bits s) {more : Bits} (replies : t.replies = s.replies)
    (out : t.outBits = s.outBits ++ more) : Returned r0 (bits ++ more) t := by
  obtain ⟨records, hreplies, hclean, rfl⟩ := h
  exact ⟨records, replies.trans hreplies, hclean, by rw [out, List.append_assoc]⟩

theorem Returned.same (h : Returned r0 bits s) (replies : t.replies = s.replies) (out : t.outBits = s.outBits) :
    Returned r0 bits t := by
  obtain ⟨records, hreplies, hclean, rfl⟩ := h
  exact ⟨records, replies.trans hreplies, hclean, by rw [out]⟩

/-- A record without an error hands on what it says; the bits that stay are those of `t`. -/
theorem Returned.record (h : Returned r0 bits s) {bytes : List Byte}
    (replies : t.replies = s.replies ++ [{ producedOutput := bytes, error := none }])
    (out : s.outBits = bytesBits bytes ++ t.outBits) : Returned r0 bits t := by
  obtain ⟨records, hreplies, hclean, rfl⟩ := h
  refine ⟨records ++ [{ producedOutput := bytes, error := none }], ?_, fun r hr => ?_, ?_⟩
  · rw [replies, hreplies, List.append_assoc]
  · obtain hr | hr := List.mem_append.1 hr
    · exact hclean r hr
    · rw [List.mem_singleton.1 hr]
  · rw [outputs_snoc, bytesBits_append, out, List.append_assoc]

/-- Delivery moves the bytes of `OUT` into a record. -/
theorem Returned.deliver (h : Returned r0 bits s) : Returned r0 bits s.deliver :=
  h.record (State.deliver_replies s) rfl

end

/-! ## An engine in a session -/

/-- A live engine of kind `k` that has received the bytes `S`, the requests `q` being left. -/
structure InSession (k : Kind) (short : Bool) (q : List Request) (S : List Byte) (s : State) : Prop where
  inv : Inv s
  limits : s.limits = .unbounded
  kind : s.kind = some k
  len2Short : s.len2Short = short
  requests : s.requests = q
  input : s.input.Received S

section
variable {k : Kind} {short : Bool} {q : List Request} {S : List Byte} {s t : State}

/-- A step inside a transaction. -/
theorem InSession.stepped (h : InSession k short q S s) (hs : step s = .next t) (kind : t.kind = s.kind)
    (requests : t.requests = s.requests) (input : t.input.Received S) : InSession k short q S t := by
  obtain ⟨hl2, hlimits⟩ := engineStep_parameters (step_next hs).1
  exact ⟨stepKeepsInvariant s t h.inv hs, hlimits.trans h.limits, kind.trans h.kind, hl2.trans h.len2Short,
    requests.trans h.requests, input⟩

theorem InSession.live (h : InSession k short q S s) : s.kind ≠ none := by simp [h.kind]

/-- An empty chunk is answered with an empty record (R298). -/
theorem InSession.step_emptyFeed (h : InSession k short (.feed [] :: q) S s) (idle : s.activity = .idle)
    (alive : s.phase ≠ .failed) (ended : s.flags.streamEnded = false) :
    step s = .next (State.reply { s with requests := q } { producedOutput := [], error := none }) := by
  rw [step_unbounded h.limits, idle_req idle h.requests]
  exact accept_feed_nil (s := { s with requests := q }) h.live alive ended

theorem InSession.emptyFeed (h : InSession k short (.feed [] :: q) S s) (r : Reply) :
    InSession k short q S (State.reply { s with requests := q } r) :=
  ⟨inv_queue h.inv q (s.replies ++ [r]), h.limits, h.kind, h.len2Short, rfl, h.input⟩

theorem InSession.beginFeed {chunk : List Byte} (h : InSession k short (.feed chunk :: q) S s) (idle : s.activity = .idle)
    (alive : s.phase ≠ .failed) (ended : s.flags.streamEnded = false) :
    InSession k short q (S ++ chunk) (s.feeding q (s.input.receive chunk)) :=
  ⟨inv_beginFeed (inv_queue h.inv q s.replies) idle h.live alive ended chunk, h.limits, h.kind, h.len2Short, rfl,
    h.input.receive chunk⟩

theorem InSession.beginFinish (h : InSession k short (.finish :: q) S s) (idle : s.activity = .idle)
    (alive : s.phase ≠ .failed) (ended : s.flags.streamEnded = false) :
    InSession k short q S (State.beginFinish { s with requests := q }) :=
  ⟨inv_beginFinish (inv_queue h.inv q s.replies) idle h.live alive ended, h.limits, h.kind, h.len2Short, rfl, h.input⟩

/-- The end of a transaction without an error. -/
theorem InSession.received_deliver (h : InSession k short q S s) : s.deliver.input.Received S :=
  h.input.dropTo h.inv.spaces _

end

/-- The state right after creation, its record returned. -/
def State.fresh (s : State) (k : Kind) (ct : Option CType) (ds : Option DSize) (rest : List Request) : State :=
  (State.created { s with requests := rest } (some k) ct ds).reply { producedOutput := [], error := none }

section
variable (s : State) {k : Kind} {ct : Option CType} {ds : Option DSize} (rest : List Request)

theorem inSession_fresh (hl : s.limits = .unbounded) (legal : CreationLegal (some k) ct ds) :
    InSession k s.len2Short rest [] (s.fresh k ct ds rest) :=
  ⟨inv_queue (inv_created { s with requests := rest } (some k) ct ds legal) rest _, hl, rfl, rfl, rfl, rfl,
    fun _ _ => rfl⟩

theorem returned_fresh : Returned s.replies [] (s.fresh k ct ds rest) :=
  ⟨[{ producedOutput := [], error := none }], rfl, by simp, rfl⟩

end

/-! ## The chunks in order -/

/-- What holds of an engine that waits, and is kept by every `feed`, holds after all the chunks. -/
theorem reaches_feeds {P : List Request → List Byte → State → Prop}
    (feed : ∀ {chunk q S s}, P (.feed chunk :: q) S s → ∃ t, Reaches s t ∧ P q (S ++ chunk) t)
    (chunks : List (List Byte)) {q : List Request} {S : List Byte} {s : State} (h : P (chunks.map .feed ++ q) S s) :
    ∃ t, Reaches s t ∧ P q (S ++ chunks.flatten) t := by
  induction chunks generalizing S s with
  | nil => exact ⟨s, .here s, by simpa using h⟩
  | cons chunk chunks ih =>
    obtain ⟨u, hsu, hu⟩ := feed h
    obtain ⟨t, hut, ht⟩ := ih hu
    exact ⟨t, hsu.trans hut, by rwa [List.flatten_cons, ← List.append_assoc]⟩

end Sys2Proof.Machine

/-! PROOFS. O58: an IMPLODE engine under every chunking. -/

namespace Sys2Proof.Machine

/-! ## What an IMPLODE engine keeps in a session (R276) -/

/-- All the bits of the stream of an input, but for its padding (R277). -/
def implodeBits (short : Bool) (ct : CType) (ds : DSize) (bytes : List Byte) : Bits :=
  bytesBits (headerBytes ct ds) ++ implodeRest short ct ds bytes 0

/-- The bits that an engine has still to put for an input: all of them before its first transaction. -/
def State.implodeAhead (s : State) (short : Bool) (ct : CType) (ds : DSize) (bytes : List Byte) : Bits :=
  if s.phase = .awaitingHeader then implodeBits short ct ds bytes else implodeRest short ct ds bytes s.ipos

/-- An IMPLODE engine that has received `S`: the bits put so far begin the stream of every input that begins with `S`, and of
`S` itself once `finish` was called. -/
structure Imploding (short : Bool) (ct : CType) (ds : DSize) (r0 : List Reply) (q : List Request) (S : List Byte)
    (s : State) : Prop extends InSession .implode short q S s where
  hdr : s.hdr = { ctype := some ct, dsize := some ds }
  window : ∀ a, a < s.win.len → s.win.mem.read a = S[a]?
  ahead : ∃ bits, Returned r0 bits s ∧ ∀ more, (s.flags.streamEnded = true → more = []) →
    implodeBits short ct ds (S ++ more) = bits ++ s.implodeAhead short ct ds (S ++ more)

section
variable {short : Bool} {ct : CType} {ds : DSize} {r0 : List Reply} {q : List Request} {S : List Byte} {s : State}

/-- `stream_byte` gives the bytes received (R70, R194). -/
theorem Imploding.streamByte (h : Imploding short ct ds r0 q S s) (k : Nat) : s.streamByte k = S[k]? := by
  have ok := h.inv.implode h.kind
  rw [State.streamByte]
  split
  · exact h.window k ‹_›
  · have hwin := ok.window
    have hbase := ok.base_le
    exact h.input.bytes k (by omega)

theorem Imploding.emitting (h : Imploding short ct ds r0 q S s) (started : s.phase ≠ .awaitingHeader) :
    Emitting ct s := by
  obtain ⟨ct', ds', hhdr, hem⟩ := Machine.emitting (h.inv.implode h.kind) h.inv.spaces started
  rw [h.hdr] at hhdr
  cases hhdr
  exact hem

theorem canDecide_look {s : State} (h : s.canDecide = true) :
    s.flags.streamEnded = true ∨ Config.maxLen ≤ s.input.total - s.ipos := by
  simp only [State.canDecide, Bool.and_eq_true, Bool.or_eq_true, decide_eq_true_eq] at h
  exact h.2

/-- A decision sees as much as it would in the whole of any input that is still possible (R262, R263, R276). -/
theorem Imploding.findMatch (h : Imploding short ct ds r0 q S s) (can : s.canDecide = true) {more : List Byte}
    (possible : s.flags.streamEnded = true → more = []) (reach : Nat) :
    s.findMatch reach s.ipos = (wholeInput (S ++ more)).findMatch reach s.ipos := by
  have htotal := h.input.total
  have hwhole : (wholeInput (S ++ more)).input.total = S.length + more.length := List.length_append
  have hlt := canDecide_lt can
  refine findMatch_congr reach s.ipos ?_ fun k hk => ?_
  · rw [hwhole, htotal]
    obtain hend | hlook := canDecide_look can
    · simp [possible hend]
    · omega
  · rw [h.streamByte, wholeInput_byte, List.getElem?_append_left (by omega)]

/-! ## One decision (R262) -/

/-- The engine after the emission of `n` bytes as the bits `put`. -/
structure Emitted (ct : CType) (n : Nat) (put : Bits) (s t : State) : Prop where
  frame : t = { s with bc := t.bc, output := t.output, win := t.win, ipos := s.ipos + n }
  emitting : Emitting ct t
  outBits : t.outBits = s.outBits ++ put
  kept : ∀ a, a < s.win.len → t.win.mem.read a = s.win.mem.read a
  new : ∀ k, k < n → t.win.mem.read (s.ipos + k) = s.input.mem.read (s.ipos + k)

/-- The emission of a position's item is a step that keeps what the session says. -/
theorem Imploding.emitted (h : Imploding short ct ds r0 q S s) (started : s.phase ≠ .awaitingHeader) {n : Nat} {put : Bits}
    {t : State} (e : Emitted ct n put s t) (hs : step s = .next t)
    (next : ∀ more, (s.flags.streamEnded = true → more = []) →
      implodeRest short ct ds (S ++ more) s.ipos = put ++ implodeRest short ct ds (S ++ more) (s.ipos + n)) :
    Imploding short ct ds r0 q S t := by
  obtain ⟨bits, returned, ahead⟩ := h.ahead
  have ok := h.inv.implode h.kind
  obtain ⟨frame, emitting, outBits, kept, new⟩ := e
  have hwin : t.win.len = s.ipos + n := by rw [emitting.window, frame]
  have hphase : t.phase = s.phase := by rw [frame]
  refine ⟨h.toInSession.stepped hs (by rw [frame]) (by rw [frame]) (by rw [frame]; exact h.input), by rw [frame]; exact h.hdr,
    fun a ha => ?_, bits ++ put, returned.advance (by rw [frame]) outBits, fun more possible => ?_⟩
  · obtain hold | hnew := Nat.lt_or_ge a s.ipos
    · rw [kept a (ok.window ▸ hold), h.window a (ok.window ▸ hold)]
    · have := new (a - s.ipos) (by omega)
      rw [Nat.add_sub_cancel' hnew] at this
      rw [this, h.input.bytes a (ok.base_le.trans hnew)]
  · have possible : s.flags.streamEnded = true → more = [] := by rwa [frame] at possible
    have hipos : t.ipos = s.ipos + n := by rw [frame]
    rw [ahead more possible, State.implodeAhead, State.implodeAhead, hphase, if_neg started, if_neg started, next more possible,
      hipos, List.append_assoc]

/-- Inside a transaction a position that can be decided is decided. -/
theorem step_decides {s : State} (hl : s.limits = .unbounded) (kind : s.kind = some .implode)
    (running : s.activity = .feed ∧ s.phase = .streaming ∨ s.activity = .finish ∧ s.phase = .flushing)
    (can : s.canDecide = true) : step s = decidePosition s := by
  rw [step_unbounded hl]
  obtain ⟨activity, phase⟩ | ⟨activity, phase⟩ := running
  · simp [engine_impl_feed kind activity, implodeFeed, phase, can]
  · simp [engine_impl_finish kind activity, implodeFinish, phase, can]

/-- The match emitted is the one of the whole input. -/
theorem Imploding.decides_match (h : Imploding short ct ds r0 q S s) (started : s.phase ≠ .awaitingHeader)
    (can : s.canDecide = true) (hs : step s = decidePosition s)
    (hfound : Config.minLen ≤ (s.findMatch (windowReach ds) s.ipos).1) :
    ∃ t n, 0 < n ∧ step s = .next t ∧ Imploding short ct ds r0 q S t
      ∧ t = { s with bc := t.bc, output := t.output, win := t.win, ipos := s.ipos + n } := by
  obtain ⟨hmax, hin, hpos, hreach, hshort, -⟩ := findMatch_spec s (windowReach ds) s.ipos hfound
  obtain ⟨i, e, hi, he, hne, hlen⟩ := matchLength_exists hfound hmax
  rw [← hlen] at hin hshort
  have hlt := canDecide_lt can
  obtain ⟨t, low, ht, hw, hoff, frame, emitting, outBits, kept, new⟩ := emitMatch_spec (h.emitting started) ds hi he hne hpos
    (distanceIndex_lt s.len2Short (hreach.trans (Nat.min_le_left _ _)) hshort) (by omega)
  have hemit : decidePosition s = .next t := by
    rw [decidePosition, h.hdr]
    exact (if_pos hfound).trans (hlen ▸ ht)
  rw [hemit] at hs
  rw [List.append_assoc] at outBits
  refine ⟨t, _, (len_range hi he hne).1.trans_lt' (by decide), hs,
    h.emitted started ⟨frame, emitting, outBits, kept, new⟩ hs fun more possible => ?_, frame⟩
  rw [h.len2Short] at hw
  have hsame := h.findMatch can possible (windowReach ds)
  have hlong : s.ipos < (S ++ more).length := by rw [List.length_append, ← h.input.total]; omega
  rw [implodeRest_match short ct hlong ⟨hi, he, hne⟩ (hlen.trans (congrArg Prod.fst hsame)) hw
    (hoff.trans (congrArg Prod.snd hsame)), List.append_assoc]

theorem Imploding.decides_literal (h : Imploding short ct ds r0 q S s) (started : s.phase ≠ .awaitingHeader)
    (can : s.canDecide = true) (hs : step s = decidePosition s)
    (hnone : ¬ Config.minLen ≤ (s.findMatch (windowReach ds) s.ipos).1) :
    ∃ t n, 0 < n ∧ step s = .next t ∧ Imploding short ct ds r0 q S t
      ∧ t = { s with bc := t.bc, output := t.output, win := t.win, ipos := s.ipos + n } := by
  have hlt := canDecide_lt can
  obtain ⟨t, b, ht, hb, frame, emitting, outBits, kept, new⟩ := emitLiteral_spec (h.emitting started) hlt
  have hemit : decidePosition s = .next t := by
    rw [decidePosition, h.hdr]
    simp only [if_neg hnone, ht]
  rw [hemit] at hs
  refine ⟨t, 1, Nat.one_pos, hs, h.emitted started ⟨frame, emitting, outBits, kept, fun k hk => ?_⟩ hs
    fun more possible => ?_, frame⟩
  · obtain rfl : k = 0 := by omega
    exact new.trans hb.symm
  · rw [h.input.bytes _ (h.inv.implode h.kind).base_le] at hb
    have hbyte : (S ++ more)[s.ipos]? = some b := by
      rw [List.getElem?_append_left (by rw [← h.input.total]; exact hlt), hb]
    obtain ⟨hlong, hget⟩ := List.getElem?_eq_some_iff.1 hbyte
    rw [h.findMatch can possible] at hnone
    rw [implodeRest_literal short ct hlong hnone, hget]

/-- One decision is one step; it takes at least one byte. -/
theorem Imploding.decides (h : Imploding short ct ds r0 q S s)
    (running : s.activity = .feed ∧ s.phase = .streaming ∨ s.activity = .finish ∧ s.phase = .flushing)
    (can : s.canDecide = true) :
    ∃ t n, 0 < n ∧ step s = .next t ∧ Imploding short ct ds r0 q S t
      ∧ t = { s with bc := t.bc, output := t.output, win := t.win, ipos := s.ipos + n } := by
  have hs := step_decides h.limits h.kind running can
  have started : s.phase ≠ .awaitingHeader := by
    obtain ⟨-, phase⟩ | ⟨-, phase⟩ := running <;> simp [phase]
  by_cases hfound : Config.minLen ≤ (s.findMatch (windowReach ds) s.ipos).1
  · exact h.decides_match started can hs hfound
  · exact h.decides_literal started can hs hfound

/-- Inside a transaction the engine decides as long as it can. -/
theorem Imploding.decides_all (h : Imploding short ct ds r0 q S s)
    (running : s.activity = .feed ∧ s.phase = .streaming ∨ s.activity = .finish ∧ s.phase = .flushing) :
    ∃ t, Reaches s t ∧ Imploding short ct ds r0 q S t ∧ t.activity = s.activity ∧ t.phase = s.phase
      ∧ t.canDecide = false := by
  induction hn : s.input.total - s.ipos using Nat.strongRecOn generalizing s with
  | ind n ih =>
    cases can : s.canDecide with
    | false => exact ⟨s, .here s, h, rfl, rfl, can⟩
    | true =>
      obtain ⟨u, k, hk, hs, hu, frame⟩ := h.decides running can
      have hlt := canDecide_lt can
      have activity : u.activity = s.activity := by rw [frame]
      have phase : u.phase = s.phase := by rw [frame]
      have hleft : u.input.total - u.ipos < n := by rw [frame]; dsimp only; omega
      obtain ⟨t, hut, ht, tactivity, tphase, tcan⟩ := ih _ hleft hu (by rwa [activity, phase]) rfl
      exact ⟨t, .later hs hut, ht, tactivity.trans activity, tphase.trans phase, tcan⟩

/-! ## The start of the stream, and the ends of a `feed` and of a `finish` (R261, R262, R272) -/

/-- The header is put before anything else. -/
theorem Imploding.starts (h : Imploding short ct ds r0 q S s) (busy : s.activity ≠ .idle)
    (waiting : s.phase = .awaitingHeader) :
    ∃ t, step s = .next t ∧ Imploding short ct ds r0 q S t ∧ t.activity = s.activity ∧ t.phase = .streaming := by
  obtain ⟨-, -, -, early, -⟩ := (h.inv.implode h.kind).header
  obtain ⟨-, cursor, ipos⟩ := early waiting
  obtain ⟨bits, returned, ahead⟩ := h.ahead
  have hs : step s = .next { writeHeader ct ds s with tables := implodeTables ct, phase := .streaming } := by
    rw [step_unbounded h.limits, engine_startImplode h.kind busy waiting, startImplode, h.hdr]
  refine ⟨_, hs, ⟨h.toInSession.stepped hs rfl rfl h.input, h.hdr, h.window, _,
    returned.advance (more := bytesBits (headerBytes ct ds)) rfl ?_, fun more possible => ?_⟩, rfl, rfl⟩
  · rw [outBits_of_empty (by exact cursor), outBits_of_empty cursor, ← bytesBits_append]
    exact congrArg bytesBits (writeHeader_bytes h.inv.spaces ct ds)
  · rw [ahead more possible, State.implodeAhead, if_pos waiting, List.append_assoc, implodeBits]
    simp only [State.implodeAhead, reduceCtorEq, if_false]
    exact congrArg (fun p => bits ++ (bytesBits (headerBytes ct ds) ++ implodeRest short ct ds (S ++ more) p)) ipos.symm

/-- A `feed` ends where the lookahead does. -/
theorem Imploding.stops (h : Imploding short ct ds r0 q S s) (activity : s.activity = .feed) (phase : s.phase = .streaming)
    (can : s.canDecide = false) : step s = .next s.stopForInput ∧ Imploding short ct ds r0 q S s.stopForInput := by
  have hs : step s = .next s.stopForInput := by
    rw [step_unbounded h.limits, engine_impl_feed h.kind activity]
    simp [implodeFeed, phase, can]
  obtain ⟨bits, returned, ahead⟩ := h.ahead
  exact ⟨hs, h.toInSession.stepped hs rfl rfl h.received_deliver, h.hdr, h.window, bits, returned.deliver, ahead⟩

/-- An engine between transactions, `finish` not yet called. -/
structure ImplodeWaits (short : Bool) (ct : CType) (ds : DSize) (r0 : List Reply) (q : List Request) (S : List Byte)
    (s : State) : Prop extends Imploding short ct ds r0 q S s where
  idle : s.activity = .idle
  ended : s.flags.streamEnded = false

theorem Imploding.alive (h : Imploding short ct ds r0 q S s) : s.phase ≠ .failed := (h.inv.implode h.kind).not_failed

/-- Inside a transaction the stream is started, if it was not. -/
theorem Imploding.reaches_streaming (h : Imploding short ct ds r0 q S s) (busy : s.activity ≠ .idle)
    (phase : s.phase = .awaitingHeader ∨ s.phase = .streaming) :
    ∃ t, Reaches s t ∧ Imploding short ct ds r0 q S t ∧ t.activity = s.activity ∧ t.phase = .streaming := by
  obtain waiting | streaming := phase
  · obtain ⟨t, hs, ht⟩ := h.starts busy waiting
    exact ⟨t, .one hs, ht⟩
  · exact ⟨s, .here s, h, rfl, streaming⟩

theorem ImplodeWaits.phase (h : ImplodeWaits short ct ds r0 q S s) : s.phase = .awaitingHeader ∨ s.phase = .streaming :=
  h.inv.waiting h.idle h.alive h.ended

/-! ## The transactions -/

theorem ImplodeWaits.beginFeed {chunk : List Byte} (h : ImplodeWaits short ct ds r0 (.feed chunk :: q) S s) :
    Imploding short ct ds r0 q (S ++ chunk) (s.feeding q (s.input.receive chunk)) := by
  obtain ⟨bits, returned, ahead⟩ := h.ahead
  have ok := h.inv.implode h.kind
  refine ⟨h.toInSession.beginFeed h.idle h.alive h.ended, h.hdr, fun a ha => ?_, bits, returned.same rfl rfl,
    fun more _ => ?_⟩
  · have hin : s.win.len ≤ S.length := by rw [ok.window, ← h.input.total]; exact ok.ipos_le
    exact (h.window a ha).trans (List.getElem?_append_left (Nat.lt_of_lt_of_le ha hin)).symm
  · rw [List.append_assoc]
    exact ahead (chunk ++ more) (by simp [h.ended])

theorem ImplodeWaits.beginFinish (h : ImplodeWaits short ct ds r0 (.finish :: q) S s) :
    Imploding short ct ds r0 q S (State.beginFinish { s with requests := q }) := by
  obtain ⟨bits, returned, ahead⟩ := h.ahead
  exact ⟨h.toInSession.beginFinish h.idle h.alive h.ended, h.hdr, h.window, bits, returned.same rfl rfl,
    fun more _ => ahead more (by simp [h.ended])⟩

/-- A `feed` decides what the bytes received so far allow (R263). -/
theorem ImplodeWaits.feed {chunk : List Byte} (h : ImplodeWaits short ct ds r0 (.feed chunk :: q) S s) :
    ∃ t, Reaches s t ∧ ImplodeWaits short ct ds r0 q (S ++ chunk) t := by
  by_cases hempty : chunk = []
  · subst hempty
    obtain ⟨bits, returned, ahead⟩ := h.ahead
    refine ⟨_, .one (h.toInSession.step_emptyFeed h.idle h.alive h.ended), ?_⟩
    rw [List.append_nil]
    exact ⟨⟨h.toInSession.emptyFeed _, h.hdr, h.window, bits, returned.record rfl rfl, ahead⟩, h.idle, h.ended⟩
  · have hbegin := step_beginFeed h.limits h.live h.idle h.alive h.ended h.requests hempty
    obtain ⟨u, hu, uimp, uactivity, uphase⟩ := h.beginFeed.reaches_streaming (by simp [State.feeding]) h.phase
    obtain ⟨v, hv, vimp, vactivity, vphase, vcan⟩ := uimp.decides_all (.inl ⟨uactivity, uphase⟩)
    have activity : v.activity = .feed := vactivity.trans uactivity
    obtain ⟨hstop, timp⟩ := vimp.stops activity (vphase.trans uphase) vcan
    obtain ⟨-, ended, -⟩ := vimp.inv.control.feed activity
    exact ⟨_, (Reaches.one hbegin).trans (hu.trans (hv.trans (.one hstop))), timp, rfl, ended⟩

/-- A `finish` goes on in `Flushing` (R272). -/
theorem Imploding.flushes (h : Imploding short ct ds r0 q S s) (activity : s.activity = .finish)
    (phase : s.phase = .streaming) :
    step s = .next (s.setPhase .flushing) ∧ Imploding short ct ds r0 q S (s.setPhase .flushing) := by
  have hs : step s = .next (s.setPhase .flushing) := by
    rw [step_unbounded h.limits, engine_impl_finish h.kind activity, implodeFinish, phase]
  obtain ⟨bits, returned, ahead⟩ := h.ahead
  refine ⟨hs, h.toInSession.stepped hs rfl rfl h.input, h.hdr, h.window, bits, returned.same rfl rfl, fun more possible => ?_⟩
  rw [ahead more possible, State.implodeAhead, if_neg (by simp [phase])]
  rfl

/-- Two byte sequences of the same bits and fewer than 8 zero bits behind them are the same (R124). -/
theorem bytes_eq_of_padded {xs ys : List Byte} {bits : Bits} {m n : Nat} (hm : m < 8) (hn : n < 8)
    (hx : bytesBits xs = bits ++ List.replicate m false) (hy : bytesBits ys = bits ++ List.replicate n false) : xs = ys := by
  have hxl := congrArg List.length hx
  have hyl := congrArg List.length hy
  simp only [bytesBits_length, List.length_append, List.length_replicate] at hxl hyl
  obtain rfl : m = n := by omega
  exact bytesBits_injective xs ys (hx.trans hy.symm)

/-- The end of the stream: EOS and the padding are put, and every byte is returned (R271, R272). -/
theorem Imploding.ends (h : Imploding short ct ds r0 q S s) (activity : s.activity = .finish) (phase : s.phase = .flushing)
    (can : s.canDecide = false) :
    ∃ records t, step s = .next t ∧ t.activity = .idle ∧ t.requests = q ∧ t.replies = r0 ++ records
      ∧ (∀ r ∈ records, r.error = none) ∧ outputs records = implodeStream short ct ds S ∧ t.phase = .done := by
  obtain ⟨o, pad, hend, hpad, hbits⟩ := endImplode_spec (h.emitting (by simp [phase]))
  have hs : step s = .next (s.imploded o).deliver := by
    rw [step_unbounded h.limits, engine_impl_finish h.kind activity]
    simpa [implodeFinish, phase, can] using hend
  obtain ⟨-, ended, -⟩ := h.inv.control.finish activity
  have hall : S.length ≤ s.ipos := h.input.total ▸ all_of_not_canDecide ended (by simp [can])
  obtain ⟨bits, returned, ahead⟩ := h.ahead
  have hbitsEnd := ahead [] fun _ => rfl
  rw [List.append_nil, State.implodeAhead, if_neg (by simp [phase]), implodeRest_end short ct hall] at hbitsEnd
  have returned : Returned r0 (implodeBits short ct ds S ++ List.replicate pad false) (s.imploded o) := by
    rw [hbitsEnd, List.append_assoc]
    refine returned.advance rfl ?_
    rw [outBits_of_empty rfl, ← List.append_assoc]
    exact hbits
  obtain ⟨records, hreplies, hclean, hout⟩ := returned.deliver
  obtain ⟨n, hn, hstream⟩ := bytesBits_packBits (implodeRest short ct ds S 0)
  refine ⟨records, _, hs, rfl, h.requests, hreplies, hclean, ?_, rfl⟩
  refine bytes_eq_of_padded hpad hn (bits := implodeBits short ct ds S) ?_ ?_
  · rw [← hout, outBits_of_empty rfl]
    exact (List.append_nil _).symm
  · rw [implodeStream_eq, bytesBits_append, hstream, ← List.append_assoc, implodeBits]

/-- `finish` decides the rest and ends the stream (R272). -/
theorem ImplodeWaits.finish (h : ImplodeWaits short ct ds r0 [.finish] S s) :
    ∃ records t, Reaches s t ∧ t.activity = .idle ∧ t.requests = [] ∧ t.replies = r0 ++ records
      ∧ (∀ r ∈ records, r.error = none) ∧ outputs records = implodeStream short ct ds S ∧ t.phase = .done := by
  have hbegin := step_beginFinish h.limits h.live h.idle h.alive h.ended h.requests
  obtain ⟨u, hu, uimp, uactivity, uphase⟩ := h.beginFinish.reaches_streaming (by simp) h.phase
  obtain ⟨hflush, vimp⟩ := uimp.flushes uactivity uphase
  obtain ⟨w, hw, wimp, wactivity, wphase, wcan⟩ := vimp.decides_all (.inr ⟨uactivity, rfl⟩)
  obtain ⟨records, t, hend, ht⟩ := wimp.ends (wactivity.trans uactivity) wphase wcan
  exact ⟨records, t, (Reaches.one hbegin).trans (hu.trans (.later hflush (hw.trans (.one hend)))), ht⟩

end

/-- Settles O58: every `feed` and the `finish` keep what the session says of the bits put. -/
theorem implodeEngineIgnoresChunking : Obligations.ImplodeEngineIgnoresChunking := by
  intro s ct ds chunks hl idle hr
  have hcreate := step_createImplode_ok idle hr
  have hfresh : ImplodeWaits s.len2Short ct ds s.replies (chunks.map .feed ++ [.finish]) []
      (s.fresh .implode (some ct) (some ds) (chunks.map .feed ++ [.finish])) :=
    ⟨⟨inSession_fresh s _ hl (.inr (.inr ⟨rfl, ct, ds, rfl, rfl⟩)), rfl, fun a ha => absurd ha (Nat.not_lt_zero a), [],
      returned_fresh s _, fun _ _ => rfl⟩, rfl, rfl⟩
  obtain ⟨u, hu, uwaits⟩ := reaches_feeds ImplodeWaits.feed chunks hfresh
  obtain ⟨records, t, ht, tidle, trequests, treplies, hclean, hout, hdone⟩ := uwaits.finish
  exact ⟨records, t, ⟨(Reaches.one hcreate).trans (hu.trans ht), tidle, trequests, treplies⟩, hclean, hout, hdone⟩

end Sys2Proof.Machine

/-! PROOFS. O59: an EXPLODE engine under every chunking. -/

namespace Sys2Proof.Machine

/-! ## What a fetch sees of the bytes received (R12, R107) -/

theorem bitAt_received {s : State} {S : List Byte} (h : s.input.Received S) {k : Nat} (hk : 8 * s.input.base ≤ k) :
    s.bitAt k = (bytesBits S)[k]? := by
  rw [State.bitAt, h.total, h.bytes _ (by omega), bytesBits_get]
  split
  · rfl
  · rw [List.getElem?_eq_none (by omega)]
    rfl

theorem bitsFrom_received {s : State} {S : List Byte} (h : s.input.Received S) (n : Nat) {k : Nat}
    (hk : 8 * s.input.base ≤ k) : s.bitsFrom n k = ((bytesBits S).drop k).take n := by
  induction n generalizing k with
  | zero => rfl
  | succ n ih =>
    rw [State.bitsFrom, bitAt_received h hk]
    obtain hin | hout := Nat.lt_or_ge k (bytesBits S).length
    · rw [List.getElem?_eq_getElem hin, List.drop_eq_getElem_cons hin, List.take_succ_cons, ← ih (by omega)]
    · rw [List.getElem?_eq_none hout, List.drop_eq_nil_of_le hout]
      rfl

section
variable {short : Bool} {q : List Request} {S : List Byte} {s : State} {ct : CType} {p : Place}

/-- A streaming engine with an item due fetches from the bytes received. -/
theorem InSession.fetch (h : InSession .explode short q S s) (hp : s.place = some p) (phase : s.phase = .streaming)
    (tables : s.tables = explodeTables ct) :
    s.fetch p = decode (explodeTables ct) p (((bytesBits S).drop (s.itemStart p)).take Config.fetchSpan) := by
  rw [State.fetch, tables, State.fetchBits, bitsFrom_received h.input _ (itemStart_bounds h.inv hp phase).1]

/-- An item that is wholly there is executed. -/
theorem InSession.step_item (h : InSession .explode short q S s) (hp : s.place = some p) (phase : s.phase = .streaming)
    (tables : s.tables = explodeTables ct) (ht : tablesAt ct p) {item : Item} {rest : Bits} (range : item.inRange)
    (stands : canStand item p) (bits : (bytesBits S).drop (s.itemStart p) = encodeItem item ++ rest) :
    step s = execItem item s := by
  have hwhole := decode_encodeItem range stands ht rest
  have hspan := fetchSpanSuffices ct p (encodeItem item ++ rest) ht
  rw [hwhole, ← bits] at hspan
  obtain ⟨rest', hfetch⟩ := decodedInstr_eq_some_iff.1 hspan
  rw [step_place h.limits hp, h.fetch hp phase tables, hfetch, afterFetch, exec_eq_execItem, item_ofItem range]

/-- An item that is not wholly there ends the transaction (R228). -/
theorem InSession.step_short (h : InSession .explode short q S s) (hp : s.place = some p) (phase : s.phase = .streaming)
    (tables : s.tables = explodeTables ct) (few : ((bytesBits S).drop (s.itemStart p)).length < 16)
    (needMore : decode (explodeTables ct) p ((bytesBits S).drop (s.itemStart p)) = .needMore) :
    step s = .next s.stopForInput := by
  rw [step_place h.limits hp, h.fetch hp phase tables, List.take_of_length_le (few.le.trans (by decide)), needMore]
  rfl

end

/-! ## An EXPLODE engine between and inside transactions -/

/-- What `explode` makes of every stream that begins with the bytes `S`, as far as an engine that waits has decoded it. -/
inductive ExplodeAhead (short : Bool) (S : List Byte) (s : State) : Prop where
  /-- Nothing is decoded. -/
  | header (phase : s.phase = .awaitingHeader)
  /-- The symbols before `IPOS` are decoded, and the bits of `S` after it are no whole symbol. -/
  | symbols {ct : CType} {ds : DSize} (phase : s.phase = .streaming) (eos : s.flags.eosSeen = false)
      (hdr : s.hdr = { ctype := some ct, dsize := some ds })
      (rest : ∀ more, explodeStream short (S ++ more)
        = explodeRest short ct ds ((bytesBits (S ++ more)).drop s.ipos) s.win.mem.bytes)
      (noSymbol : explodeStream short S = .error .truncatedStream)
  /-- EOS is decoded. -/
  | ended (phase : s.phase = .streaming) (eos : s.flags.eosSeen = true)
      (whole : ∀ more, explodeStream short (S ++ more) = .ok s.win.mem.bytes)

/-- An engine that has not failed, between transactions. -/
structure ExplodeWaits (short : Bool) (r0 : List Reply) (q : List Request) (S : List Byte) (s : State) : Prop
    extends InSession .explode short q S s where
  idle : s.activity = .idle
  returned : Returned r0 (bytesBits s.win.mem.bytes) s
  ahead : ExplodeAhead short S s

/-- A failed engine: every stream that begins with `S` has this error. -/
structure ExplodeFailed (short : Bool) (r0 : List Reply) (q : List Request) (S : List Byte) (s : State) : Prop where
  limits : s.limits = .unbounded
  kind : s.kind = some .explode
  idle : s.activity = .idle
  requests : s.requests = q
  phase : s.phase = .failed
  error : ∃ e records, s.err = some e ∧ (∀ more, explodeStream short (S ++ more) = .error e)
    ∧ s.replies = r0 ++ records ∧ ∃ r ∈ records, r.error = some e

/-- An engine between transactions. -/
def ExplodeBetween (short : Bool) (r0 : List Reply) (q : List Request) (S : List Byte) (s : State) : Prop :=
  ExplodeWaits short r0 q S s ∨ ExplodeFailed short r0 q S s

/-- An engine inside a `feed` with a symbol due: the symbols before `IPOS` are decoded. -/
structure DecodingSymbols (short : Bool) (ct : CType) (ds : DSize) (r0 : List Reply) (q : List Request) (S : List Byte)
    (s : State) : Prop extends InSession .explode short q S s where
  due : SymbolDue ct s
  hdr : s.hdr = { ctype := some ct, dsize := some ds }
  returned : Returned r0 (bytesBits s.win.mem.bytes) s
  rest : ∀ more, explodeStream short (S ++ more)
    = explodeRest short ct ds ((bytesBits (S ++ more)).drop s.ipos) s.win.mem.bytes

section
variable {short : Bool} {r0 : List Reply} {q : List Request} {S : List Byte} {s t : State} {ct : CType} {ds : DSize}

/-- The cursor of an EXPLODE engine puts no bits of its own (R23, log 24). -/
theorem InSession.outBits (h : InSession .explode short q S s) (alive : s.phase ≠ .failed) :
    s.outBits = bytesBits s.output.mem.bytes := outBits_of_empty (h.inv.explode h.kind alive).cursor

theorem InSession.tables (h : InSession .explode short q S s) (phase : s.phase = .streaming)
    (hdr : s.hdr = { ctype := some ct, dsize := some ds }) : s.tables = explodeTables ct := by
  obtain ⟨ct', ds', hhdr, htables⟩ := (h.inv.headerRead h.kind phase).2.header
  rw [hdr] at hhdr
  cases hhdr
  exact htables

/-- The error is in the record of the transaction that meets it (R313). -/
theorem Returned.raise {bits : Bits} (h : Returned r0 bits s) (e : ErrorKind) :
    ∃ records, (raise e s).replies = r0 ++ records ∧ ∃ r ∈ records, r.error = some e := by
  obtain ⟨records, hreplies, -⟩ := h
  refine ⟨records ++ [{ producedOutput := [], error := some e }], ?_, _,
    List.mem_append_right _ (List.mem_singleton_self _), rfl⟩
  rw [raise_replies, hreplies, List.append_assoc]

theorem failed_of_raise {e : ErrorKind} (h : InSession .explode short q S s) {bits : Bits} (returned : Returned r0 bits s)
    (error : ∀ more, explodeStream short (S ++ more) = .error e) : ExplodeFailed short r0 q S (raise e s) := by
  obtain ⟨records, hreplies, hrecord⟩ := returned.raise e
  exact ⟨h.limits, h.kind, rfl, h.requests, rfl, e, records, rfl, error, hreplies, hrecord⟩

/-! ## One symbol (R223) -/

/-- Bits received later stand behind those received before. -/
theorem drop_append_of_prefix {bits more item rest : Bits} {k : Nat} (hk : k ≤ bits.length)
    (h : bits.drop k = item ++ rest) : (bits ++ more).drop k = item ++ (bits ++ more).drop (k + item.length) := by
  rw [← List.drop_drop, List.drop_append_of_le_length hk, h, List.append_assoc, List.drop_left]

theorem canStand_symbol {item : Item} (h : canStand item (.symbol ct)) :
    (∃ b, item = literalItem ct b) ∨ (∃ i e, item = .len i e) ∨ item = .eos := by
  cases item with
  | litB b => cases h; exact .inl ⟨b, rfl⟩
  | litA b => cases h; exact .inl ⟨b, rfl⟩
  | len i e => exact .inr (.inl ⟨i, e, rfl⟩)
  | eos => exact .inr (.inr rfl)
  | hdr0 c => cases h
  | hdr1 d => cases h
  | dist c low => cases h

theorem canStand_distance {item : Item} {w : DistWidth} (h : canStand item (.distance w)) :
    ∃ c low, item = .dist c low ∧ lowWidth low = w := by
  cases item with
  | dist c low => cases h; exact ⟨c, low, rfl, rfl⟩
  | len i e => obtain ⟨c, hc⟩ := h; cases hc
  | eos => obtain ⟨c, hc⟩ := h; cases hc
  | litB b => cases h
  | litA b => cases h
  | hdr0 c => cases h
  | hdr1 d => cases h

theorem DecodingSymbols.itemStart (h : DecodingSymbols short ct ds r0 q S s) : s.itemStart (.symbol ct) = s.ipos :=
  h.due.itemStart h.due.place

theorem DecodingSymbols.tables (h : DecodingSymbols short ct ds r0 q S s) : s.tables = explodeTables ct :=
  h.toInSession.tables h.due.phase h.hdr

theorem DecodingSymbols.ipos_le (h : DecodingSymbols short ct ds r0 q S s) : s.ipos ≤ (bytesBits S).length := by
  rw [bytesBits_length, ← h.input.total]
  exact (h.inv.headerRead h.kind h.due.phase).2.ipos_le

/-- With the bits of one item behind `IPOS`, whatever is received later stands behind them. -/
theorem DecodingSymbols.rest_item (h : DecodingSymbols short ct ds r0 q S s) {item rest : Bits}
    (bits : (bytesBits S).drop s.ipos = item ++ rest) (more : List Byte) :
    explodeStream short (S ++ more)
      = explodeRest short ct ds (item ++ (bytesBits (S ++ more)).drop (s.ipos + item.length)) s.win.mem.bytes := by
  rw [h.rest more, bytesBits_append, drop_append_of_prefix h.ipos_le bits]

theorem execItem_literal (ct : CType) (b : Byte) (s : State) :
    execItem (literalItem ct b) s = literal ct (itemBits (literalItem ct b)) b s := by cases ct <;> rfl

/-- A literal. -/
theorem DecodingSymbols.step_literal (h : DecodingSymbols short ct ds r0 q S s) {b : Byte} {rest : Bits}
    (bits : (bytesBits S).drop s.ipos = encodeItem (literalItem ct b) ++ rest) :
    ∃ t, step s = .next t ∧ DecodingSymbols short ct ds r0 q S t ∧ s.ipos < t.ipos := by
  have hs : step s = .next { s.emitByte b with ipos := s.ipos + itemBits (literalItem ct b) } := by
    rw [h.toInSession.step_item h.due.place h.due.phase h.tables (tablesAt_symbol ct) (literalItem_inRange ct b)
      (literalItem_stands ct b) (by rw [h.itemStart, bits]), execItem_literal, literal_due h.due]
  obtain ⟨hwin, hout⟩ := emitByte_bytes h.inv.spaces b
  have session := h.toInSession.stepped hs rfl rfl h.input
  refine ⟨_, hs, ⟨session, ⟨h.due.kind, h.due.activity, h.due.eos, h.due.phase, h.due.pending, h.due.ctype⟩, h.hdr, ?_,
    fun more => ?_⟩, ?_⟩
  · show Returned r0 (bytesBits (s.emitByte b).win.mem.bytes) _
    rw [hwin, bytesBits_append]
    refine h.returned.advance rfl ?_
    rw [session.outBits (not_failed_streaming h.due.phase), h.outBits (not_failed_streaming h.due.phase), ← bytesBits_append,
      ← hout]
  · rw [h.rest_item bits, explodeRest_literal, encodeItem_length, ← hwin]
  · cases ct <;> simp [literalItem, itemBits]

/-- The `feed` ends for lack of input; a LEN part that may wait is dropped (R228). -/
theorem DecodingSymbols.stopped (h : DecodingSymbols short ct ds r0 q S s)
    (noSymbol : explodeStream short S = .error .truncatedStream) : ExplodeWaits short r0 q S s.stopForInput :=
  ⟨⟨inv_stop h.inv h.due.activity (.inl h.due.phase), h.limits, h.kind, h.len2Short, h.requests, h.received_deliver⟩, rfl,
    h.returned.deliver, .symbols h.due.phase h.due.eos h.hdr h.rest noSymbol⟩

/-- The bits behind `IPOS` are no whole symbol. -/
theorem DecodingSymbols.step_short (h : DecodingSymbols short ct ds r0 q S s) (few : ((bytesBits S).drop s.ipos).length < 16)
    (needMore : decode (explodeTables ct) (.symbol ct) ((bytesBits S).drop s.ipos) = .needMore) :
    step s = .next s.stopForInput ∧ ExplodeWaits short r0 q S s.stopForInput := by
  rw [← h.itemStart] at few needMore
  refine ⟨h.toInSession.step_short h.due.place h.due.phase h.tables few needMore, h.stopped ?_⟩
  have hrest := h.rest []
  rw [List.append_nil, ← h.itemStart] at hrest
  rw [hrest, explodeRest_short _ _ _ _ needMore]

/-- EOS: the decode is over, and the `feed` ends (R222, R227). -/
theorem DecodingSymbols.step_eos (h : DecodingSymbols short ct ds r0 q S s) {rest : Bits}
    (bits : (bytesBits S).drop s.ipos = encodeItem .eos ++ rest) :
    ∃ t, Reaches s t ∧ ExplodeWaits short r0 q S t := by
  have hs : step s = .next { (s.setEosSeen).setNeedsMore false with ipos := s.ipos + 16 } := by
    rw [h.toInSession.step_item (item := .eos) h.due.place h.due.phase h.tables (tablesAt_symbol ct) trivial ⟨ct, rfl⟩
      (by rw [h.itemStart, bits])]
    exact endOfStream_due h.due
  have session := h.toInSession.stepped hs rfl rfl h.input
  have hend := step_afterEos session.limits session.kind h.due.activity rfl
  refine ⟨_, .later hs (.one hend), session.stepped hend rfl rfl session.received_deliver, rfl,
    (h.returned.same rfl rfl).deliver, .ended h.due.phase rfl fun more => ?_⟩
  exact (h.rest_item bits more).trans (explodeRest_eos _ _ _ _ _)

/-! ## A match (R226, R233) -/

/-- The engine with the LEN part read. -/
def State.afterLen (s : State) (i e : Nat) : State :=
  { s with pending := some { length := matchLength i e, pos := s.ipos + itemBits (.len i e) } }

/-- The engine with the match read, its bytes not yet copied. -/
def State.pastMatch (s : State) (i e c : Nat) (low : DistLow) : State :=
  { s with ipos := s.ipos + itemBits (.len i e) + itemBits (.dist c low), pending := none }

section
variable {i e : Nat} {rest : Bits} (h : DecodingSymbols short ct ds r0 q S s) (range : (Item.len i e).inRange)
  (bits : (bytesBits S).drop s.ipos = encodeItem (.len i e) ++ rest)
include h range bits

theorem DecodingSymbols.step_len :
    step s = .next (s.afterLen i e) ∧ InSession .explode short q S (s.afterLen i e) := by
  have hs : step s = .next (s.afterLen i e) := by
    rw [h.toInSession.step_item (item := .len i e) h.due.place h.due.phase h.tables (tablesAt_symbol ct) range ⟨ct, rfl⟩
      (by rw [h.itemStart, bits])]
    obtain ⟨-, -, notEos⟩ := range
    exact (if_neg notEos).trans (lengthPart_due h.due i e)
  exact ⟨hs, h.toInSession.stepped hs rfl rfl h.input⟩

omit range bits in
theorem DecodingSymbols.distanceDue :
    DistanceDue { length := matchLength i e, pos := s.ipos + itemBits (.len i e) } ds (s.afterLen i e) :=
  h.due.distanceDue (by rw [h.hdr]) _

omit range in
theorem DecodingSymbols.bits_afterLen {p : Place} (hp : (s.afterLen i e).place = some p) :
    (bytesBits S).drop ((s.afterLen i e).itemStart p) = rest := by
  rw [h.distanceDue.itemStart hp, ← encodeItem_length, ← List.drop_drop, bits, List.drop_left]

/-- A LEN part whose DIST part is not wholly there: the whole match is decoded again later (R228). -/
theorem DecodingSymbols.match_short (few : rest.length < 16)
    (needMore : decode (explodeTables ct) (.distance (distWidth short (matchLength i e) ds)) rest = .needMore) :
    ∃ t, Reaches s t ∧ ExplodeWaits short r0 q S t := by
  obtain ⟨hs, session⟩ := h.step_len range bits
  have hplace := (h.distanceDue (i := i) (e := e)).place
  have hbits := h.bits_afterLen bits hplace
  have hstop := session.step_short hplace h.due.phase h.tables (by rwa [hbits])
    (by rw [hbits, session.len2Short]; exact needMore)
  refine ⟨s.stopForInput, .later hs (.one hstop), h.stopped ?_⟩
  have hrest := h.rest []
  rwa [List.append_nil, bits, explodeRest_len_short range needMore] at hrest

/-- The DIST part of a match is executed where the LEN part left off. -/
theorem DecodingSymbols.step_dist {c : Nat} {low : DistLow} {after : Bits} (hc : c < 64)
    (hw : lowWidth low = distWidth short (matchLength i e) ds) (hrest : rest = encodeItem (.dist c low) ++ after) :
    step (s.afterLen i e) = copyMatch (matchLength i e) (matchOffset c low) (s.pastMatch i e c low) := by
  obtain ⟨-, session⟩ := h.step_len range bits
  have hplace := (h.distanceDue (i := i) (e := e)).place
  rw [session.len2Short] at hplace
  rw [session.step_item (item := .dist c low) hplace h.due.phase h.tables (tablesAt_distance ct _) hc
    (by rw [canStand, hw]) (by rw [h.bits_afterLen bits hplace, hrest])]
  exact distancePart_due h.distanceDue (by rw [session.len2Short, hw])

omit range in
/-- What a whole match is in the rest of the stream, whatever is received later. -/
theorem DecodingSymbols.rest_match {c : Nat} {low : DistLow} {after : Bits} (hrest : rest = encodeItem (.dist c low) ++ after)
    (more : List Byte) : explodeStream short (S ++ more)
      = explodeRest short ct ds (encodeItem (.len i e) ++ (encodeItem (.dist c low)
        ++ (bytesBits (S ++ more)).drop (s.pastMatch i e c low).ipos)) s.win.mem.bytes := by
  rw [hrest, ← List.append_assoc] at bits
  rw [h.rest_item bits, List.append_assoc, List.length_append, encodeItem_length, encodeItem_length, ← Nat.add_assoc]
  rfl

/-- A match that reaches before the first byte (R233). -/
theorem DecodingSymbols.match_far {c : Nat} {low : DistLow} {after : Bits} (hc : c < 64)
    (hw : lowWidth low = distWidth short (matchLength i e) ds) (hrest : rest = encodeItem (.dist c low) ++ after)
    (hfar : s.win.len < matchOffset c low) : ∃ t, Reaches s t ∧ ExplodeFailed short r0 q S t := by
  obtain ⟨hs, -⟩ := h.step_len range bits
  have hraise : step (s.afterLen i e) = .next (raise .malformedSymbol s) :=
    (h.step_dist range bits hc hw hrest).trans (if_pos hfar)
  refine ⟨_, .later hs (.one hraise), failed_of_raise h.toInSession h.returned fun more => ?_⟩
  rw [h.rest_match bits hrest more]
  exact explodeRest_match_far range hc hw (by rwa [mem_bytes_len h.inv.spaces.window])

/-- A match within the bytes produced (R193, R226). -/
theorem DecodingSymbols.match_near {c : Nat} {low : DistLow} {after : Bits} (hc : c < 64)
    (hw : lowWidth low = distWidth short (matchLength i e) ds) (hrest : rest = encodeItem (.dist c low) ++ after)
    (hnear : matchOffset c low ≤ s.win.len) :
    ∃ t, Reaches s t ∧ DecodingSymbols short ct ds r0 q S t ∧ s.ipos < t.ipos := by
  obtain ⟨hs, session⟩ := h.step_len range bits
  have hspaces : SpacesOk (s.pastMatch i e c low) := h.inv.spaces.congr rfl rfl rfl
  obtain ⟨t, ht, -⟩ := copyBytes_spec (matchLength i e) hspaces (matchOffset_pos c low) hnear
  have hcopy := (h.step_dist range bits hc hw hrest).trans (copyMatch_within hnear ht)
  obtain ⟨hwin, hout, -, frame⟩ := copyBytes_bytes hspaces (matchOffset_pos c low) hnear ht
  obtain ⟨w, o, rfl⟩ : ∃ w o, t = { s.pastMatch i e c low with win := w, output := o } := ⟨_, _, frame⟩
  have tsession := session.stepped hcopy rfl rfl h.input
  refine ⟨_, .later hs (.one hcopy), ⟨tsession,
    ⟨h.due.kind, h.due.activity, h.due.eos, h.due.phase, rfl, h.due.ctype⟩, h.hdr, ?_, fun more => ?_⟩, ?_⟩
  · rw [hwin, bytesBits_append]
    refine h.returned.advance rfl ?_
    rw [tsession.outBits (not_failed_streaming h.due.phase), h.outBits (not_failed_streaming h.due.phase), hout,
      bytesBits_append]
    rfl
  · rw [h.rest_match bits hrest more, hwin]
    exact explodeRest_match range hc hw (by rwa [mem_bytes_len h.inv.spaces.window])
  · simp only [State.pastMatch, itemBits]
    omega

end

/-! ## All the symbols -/

/-- One symbol: the engine goes on behind it, or the `feed` ends. -/
theorem DecodingSymbols.symbol (h : DecodingSymbols short ct ds r0 q S s) :
    (∃ t, Reaches s t ∧ ExplodeBetween short r0 q S t)
      ∨ ∃ t, Reaches s t ∧ DecodingSymbols short ct ds r0 q S t ∧ s.ipos < t.ipos := by
  cases reading_symbol ct ((bytesBits S).drop s.ipos) with
  | short few needMore =>
    obtain ⟨hs, ht⟩ := h.step_short few needMore
    exact .inl ⟨_, .one hs, .inl ht⟩
  | badType place => cases place
  | badClass place => cases place
  | @item item rest range stands bits =>
    obtain ⟨b, rfl⟩ | ⟨i, e, rfl⟩ | rfl := canStand_symbol stands
    · obtain ⟨t, hs, ht⟩ := h.step_literal bits
      exact .inr ⟨t, .one hs, ht⟩
    · cases reading_distance ct (distWidth short (matchLength i e) ds) rest with
      | short few needMore =>
        obtain ⟨t, hs, ht⟩ := h.match_short range bits few needMore
        exact .inl ⟨t, hs, .inl ht⟩
      | badType place => cases place
      | badClass place => cases place
      | @item item after hc stands hrest =>
        obtain ⟨c, low, rfl, hw⟩ := canStand_distance stands
        obtain hfar | hnear := Nat.lt_or_ge s.win.len (matchOffset c low)
        · obtain ⟨t, hs, ht⟩ := h.match_far range bits hc hw hrest hfar
          exact .inl ⟨t, hs, .inr ht⟩
        · exact .inr (h.match_near range bits hc hw hrest hnear)
    · obtain ⟨t, hs, ht⟩ := h.step_eos bits
      exact .inl ⟨t, hs, .inl ht⟩

/-- The `feed` goes on to its end. -/
theorem DecodingSymbols.symbols (h : DecodingSymbols short ct ds r0 q S s) :
    ∃ t, Reaches s t ∧ ExplodeBetween short r0 q S t := by
  induction hn : (bytesBits S).length - s.ipos using Nat.strongRecOn generalizing s with
  | ind n ih =>
    obtain hend | ⟨u, hsu, hu, hlt⟩ := h.symbol
    · exact hend
    · have hle := hu.ipos_le
      obtain ⟨t, hut, ht⟩ := ih _ (by omega) hu rfl
      exact ⟨t, hsu.trans hut, ht⟩

/-! ## The header (R205 to R208) -/

/-- An engine inside a `feed` that has not read its header. -/
structure DecodingHeader (short : Bool) (r0 : List Reply) (q : List Request) (S : List Byte) (s : State) : Prop
    extends InSession .explode short q S s where
  activity : s.activity = .feed
  phase : s.phase = .awaitingHeader
  ctype : s.hdr.ctype = none
  returned : Returned r0 (bytesBits s.win.mem.bytes) s

/-- With fewer than 4 bytes the engine waits. -/
theorem DecodingHeader.step_few (h : DecodingHeader short r0 q S s) (few : S.length < 4) :
    step s = .next s.stopForInput ∧ ExplodeWaits short r0 q S s.stopForInput := by
  have hs : step s = .next s.stopForInput := by
    rw [step_unbounded h.limits, engine_feed h.kind h.activity,
      explodeFeed_few h.inv h.kind h.phase (by rw [h.input.total]; exact few)]
  exact ⟨hs, h.toInSession.stepped hs rfl rfl h.received_deliver, rfl, h.returned.deliver, .header h.phase⟩

section
variable (h : DecodingHeader short r0 q S s) (enough : 4 ≤ S.length)
include h enough

theorem DecodingHeader.due : HeaderByteDue none s :=
  ⟨h.kind, h.activity, (h.inv.headerDue h.kind h.phase).2.eos, h.phase, by rw [h.input.total]; exact enough, h.ctype⟩

theorem DecodingHeader.byte {k : Nat} (hk : k < 4) : k < s.input.total ∧ s.input.mem.read k = some (S.getD k 0) := by
  have hin : k < S.length := hk.trans_le enough
  refine ⟨by rwa [h.input.total], ?_⟩
  rw [h.input.bytes k (by simp [(h.inv.headerDue h.kind h.phase).2.base]), List.getD_eq_getElem _ _ hin,
    List.getElem?_eq_getElem hin]

omit h in
/-- Bytes received later do not change the header. -/
theorem readHeader_append (more : List Byte) :
    readHeader (S ++ more) = creationArguments (S.getD 0 0) (S.getD 1 0) := by
  rw [readHeader_long (by rw [List.length_append]; exact enough.trans (Nat.le_add_right _ _))]
  simp only [List.getD_eq_getElem?_getD]
  rw [List.getElem?_append_left (by omega), List.getElem?_append_left (by omega)]

/-- The header is read, or an error raised. -/
theorem DecodingHeader.header :
    ∃ t, Reaches s t ∧ (ExplodeFailed short r0 q S t ∨ ∃ ct ds, DecodingSymbols short ct ds r0 q S t) := by
  obtain ⟨there0, byte0⟩ := h.byte enough (k := 0) (by decide)
  obtain ⟨there1, byte1⟩ := h.byte enough (k := 1) (by decide)
  have due := h.due enough
  have hheader := readHeader_append enough
  cases hct : ctypeOf (S.getD 0 0) with
  | none =>
    refine ⟨_, .one (step_headerByte0_illegal due h.limits there0 byte0 hct), .inl
      (failed_of_raise h.toInSession h.returned fun more => explodeStream_of_badHeader ?_ _)⟩
    rw [hheader more, creationArguments, hct]
  | some ct =>
    have hs0 := step_headerByte0_legal due h.limits there0 byte0 hct
    have session := h.toInSession.stepped hs0 rfl rfl h.input
    have returned : Returned r0 (bytesBits s.win.mem.bytes) { s with hdr := { s.hdr with ctype := some ct } } :=
      h.returned.same rfl rfl
    cases hds : dsizeOf (S.getD 1 0) with
    | none =>
      refine ⟨_, .later hs0 (.one (step_headerByte1_illegal (due.next ct) h.limits there1 byte1 hds)), .inl
        (failed_of_raise session returned fun more => explodeStream_of_badHeader ?_ _)⟩
      rw [hheader more, creationArguments, hct, hds]
    | some ds =>
      have hs1 := step_headerByte1_legal (due.next ct) h.limits there1 byte1 hds
      refine ⟨_, .later hs0 (.one hs1), .inr ⟨ct, ds, session.stepped hs1 rfl rfl h.input,
        ⟨due.kind, due.activity, due.eos, rfl, (h.inv.headerDue h.kind h.phase).2.pending, rfl⟩, rfl, returned.same rfl rfl,
        fun more => ?_⟩⟩
      rw [explodeStream_of_header (by rw [hheader more, creationArguments, hct, hds])]
      have nothing : s.win.mem.bytes = [] := by
        have := mem_bytes_len h.inv.spaces.window
        rw [(h.inv.headerDue h.kind h.phase).2.nothing.2] at this
        exact List.length_eq_zero_iff.1 this
      rw [nothing]

end

/-! ## The transactions -/

/-- A `feed` inside which the engine has not read its header goes on to its end. -/
theorem DecodingHeader.feed (h : DecodingHeader short r0 q S s) : ∃ t, Reaches s t ∧ ExplodeBetween short r0 q S t := by
  obtain few | enough := Nat.lt_or_ge S.length 4
  · obtain ⟨hs, ht⟩ := h.step_few few
    exact ⟨_, .one hs, .inl ht⟩
  · obtain ⟨u, hsu, hfailed | ⟨ct, ds, hu⟩⟩ := h.header enough
    · exact ⟨u, hsu, .inr hfailed⟩
    · obtain ⟨t, hut, ht⟩ := hu.symbols
      exact ⟨t, hsu.trans hut, ht⟩

theorem ExplodeWaits.phase (h : ExplodeWaits short r0 q S s) : s.phase = .awaitingHeader ∨ s.phase = .streaming := by
  cases h.ahead with
  | header phase => exact .inl phase
  | symbols phase => exact .inr phase
  | ended phase => exact .inr phase

theorem ExplodeWaits.alive (h : ExplodeWaits short r0 q S s) : s.phase ≠ .failed := by
  obtain phase | phase := h.phase <;> simp [phase]

theorem ExplodeWaits.notEnded (h : ExplodeWaits short r0 q S s) : s.flags.streamEnded = false := by
  have hended := h.inv.control.idle_ended h.idle h.alive
  obtain phase | phase := h.phase <;> simpa [phase] using hended

/-- A `feed` that begins, as far as the stream is decoded. -/
theorem ExplodeWaits.fed {chunk : List Byte} (h : ExplodeWaits short r0 (.feed chunk :: q) S s) :
    ∃ t, Reaches (s.feeding q (s.input.receive chunk)) t ∧ ExplodeBetween short r0 q (S ++ chunk) t := by
  have session := h.toInSession.beginFeed h.idle h.alive h.notEnded
  obtain ⟨-, noPending, -⟩ := h.inv.control.idle h.idle
  have returned : Returned r0 (bytesBits s.win.mem.bytes) (s.feeding q (s.input.receive chunk)) := h.returned.same rfl rfl
  cases h.ahead with
  | header phase =>
    have ctype : s.hdr.ctype = none := by
      by_contra hne
      have busy := ((h.inv.headerDue h.kind phase).2.ctype hne).1
      rw [h.idle] at busy
      cases busy
    exact DecodingHeader.feed ⟨session, rfl, phase, ctype, returned⟩
  | @symbols ct ds phase eos hdr rest =>
    have due : SymbolDue ct (s.feeding q (s.input.receive chunk)) :=
      ⟨h.kind, rfl, eos, phase, noPending, congrArg Header.ctype hdr⟩
    refine DecodingSymbols.symbols (ct := ct) (ds := ds) ⟨session, due, hdr, returned, fun more => ?_⟩
    rw [List.append_assoc]
    exact rest (chunk ++ more)
  | ended phase eos whole =>
    have hs := step_afterEos session.limits session.kind rfl eos
    refine ⟨_, .one hs, .inl ⟨session.stepped hs rfl rfl session.received_deliver, rfl, (returned.same rfl rfl).deliver,
      .ended phase eos fun more => ?_⟩⟩
    rw [List.append_assoc]
    exact whole (chunk ++ more)

/-- A failed engine repeats its error (R297). -/
theorem ExplodeFailed.answer {r : Request} (h : ExplodeFailed short r0 (r :: q) S s)
    (hr : r = .finish ∨ ∃ chunk, r = .feed chunk) (chunk : List Byte) :
    ∃ t, step s = .next t ∧ ExplodeFailed short r0 q (S ++ chunk) t := by
  have hs : step s = .next (State.reply { s with requests := q } { producedOutput := [], error := s.err }) := by
    rw [step_unbounded h.limits, idle_req h.idle h.requests]
    obtain rfl | ⟨bytes, rfl⟩ := hr
    · simp [accept, acceptFinish, h.kind, h.phase]
    · simp [accept, acceptFeed, h.kind, h.phase]
  obtain ⟨e, records, herr, herror, hreplies, r, hmem, hre⟩ := h.error
  refine ⟨_, hs, h.limits, h.kind, h.idle, rfl, h.phase, e, records ++ [{ producedOutput := [], error := s.err }], herr,
    fun more => ?_, ?_, r, List.mem_append_left _ hmem, hre⟩
  · rw [List.append_assoc, herror]
  · rw [State.reply_replies, hreplies, List.append_assoc]

/-- A `feed` decodes what the bytes received so far allow (R228, R238). -/
theorem ExplodeBetween.feed {chunk : List Byte} (h : ExplodeBetween short r0 (.feed chunk :: q) S s) :
    ∃ t, Reaches s t ∧ ExplodeBetween short r0 q (S ++ chunk) t := by
  obtain waits | failed := h
  · by_cases hempty : chunk = []
    · subst hempty
      refine ⟨_, .one (waits.toInSession.step_emptyFeed waits.idle waits.alive waits.notEnded), .inl ?_⟩
      rw [List.append_nil]
      refine ⟨waits.toInSession.emptyFeed _, waits.idle, waits.returned.record rfl rfl, ?_⟩
      cases waits.ahead with
      | header phase => exact .header phase
      | symbols phase eos hdr rest noSymbol => exact .symbols phase eos hdr rest noSymbol
      | ended phase eos whole => exact .ended phase eos whole
    · have hbegin := step_beginFeed waits.limits waits.live waits.idle waits.alive waits.notEnded waits.requests hempty
      obtain ⟨t, hut, ht⟩ := waits.fed
      exact ⟨t, .later hbegin hut, ht⟩
  · obtain ⟨t, hs, ht⟩ := failed.answer (.inr ⟨chunk, rfl⟩) chunk
    exact ⟨t, .one hs, .inr ht⟩

/-- How a session ends: as `explode` of its bytes does. -/
inductive ExplodeEnds (short : Bool) (r0 : List Reply) (S : List Byte) (t : State) : Prop where
  | done (records : List Reply) (replies : t.replies = r0 ++ records) (clean : ∀ r ∈ records, r.error = none)
      (success : explodeStream short S = .ok (outputs records)) (phase : t.phase = .done)
  | failed (e : ErrorKind) (records : List Reply) (replies : t.replies = r0 ++ records) (phase : t.phase = .failed)
      (err : t.err = some e) (error : explodeStream short S = .error e) (record : ∃ r ∈ records, r.error = some e)

theorem ExplodeFailed.ends (h : ExplodeFailed short r0 q S s) : ExplodeEnds short r0 S s := by
  obtain ⟨e, records, herr, herror, hreplies, hrecord⟩ := h.error
  have hwhole := herror []
  rw [List.append_nil] at hwhole
  exact .failed e records hreplies h.phase herr hwhole hrecord

theorem ends_of_raise {bits : Bits} (returned : Returned r0 bits s) {e : ErrorKind}
    (error : explodeStream short S = .error e) :
    ExplodeEnds short r0 S (raise e s) := by
  obtain ⟨records, hreplies, hrecord⟩ := returned.raise e
  exact .failed e records hreplies rfl rfl error hrecord

/-- With EOS seen the last transaction ends, and every byte of the window is returned. -/
theorem ends_of_done (h : InSession .explode short q S s) (alive : s.phase ≠ .failed)
    (returned : Returned r0 (bytesBits s.win.mem.bytes) s) (whole : explodeStream short S = .ok s.win.mem.bytes) :
    ExplodeEnds short r0 S (s.setPhase .done).deliver := by
  obtain ⟨records, hreplies, hclean, hout⟩ := (returned.same (t := s.setPhase .done) rfl rfl).deliver
  have hnone : (s.setPhase .done).deliver.outBits = [] := outBits_of_empty (h.inv.explode h.kind alive).cursor
  rw [hnone, List.append_nil] at hout
  exact .done records hreplies hclean (by rw [bytesBits_injective _ _ hout, whole]) rfl

section
variable (h : InSession .explode short q S s) (activity : s.activity = .finish)
  (returned : Returned r0 (bytesBits s.win.mem.bytes) s)
include h activity returned

/-- Before the header is read a `finish` raises: there are fewer than 4 bytes in all (R207). -/
theorem finish_header (phase : s.phase = .awaitingHeader) :
    ∃ t, Reaches s t ∧ t.activity = .idle ∧ t.requests = q ∧ ExplodeEnds short r0 S t := by
  have hraise : step s = .next (raise .invalidData s) := by
    rw [step_unbounded h.limits, engine_finish h.kind activity, explodeFinish, phase]
  have few : S.length < 4 := by
    rw [← h.input.total]
    exact (h.inv.headerDue h.kind phase).2.few (by simp [activity])
  exact ⟨_, .one hraise, rfl, h.requests, ends_of_raise returned (explodeStream_of_badHeader (readHeader_short few) _)⟩

/-- A streaming engine goes on in `Flushing` (R230). -/
theorem finish_flushes (phase : s.phase = .streaming) : step s = .next (s.setPhase .flushing)
    ∧ InSession .explode short q S (s.setPhase .flushing)
    ∧ Returned r0 (bytesBits s.win.mem.bytes) (s.setPhase .flushing) := by
  have hs := step_startFlushing h.limits h.kind activity phase
  exact ⟨hs, h.stepped hs rfl rfl h.input, returned.same rfl rfl⟩

/-- Without EOS the stream is truncated (R231). -/
theorem finish_truncated (phase : s.phase = .streaming) (eos : s.flags.eosSeen = false)
    (noSymbol : explodeStream short S = .error .truncatedStream) :
    ∃ t, Reaches s t ∧ t.activity = .idle ∧ t.requests = q ∧ ExplodeEnds short r0 S t := by
  obtain ⟨hflush, session, returned⟩ := finish_flushes h activity returned phase
  have hraise := step_truncated session.limits session.kind activity rfl eos
  exact ⟨_, .later hflush (.one hraise), rfl, h.requests, ends_of_raise returned noSymbol⟩

/-- With EOS seen the stream is complete (R230). -/
theorem finish_done (phase : s.phase = .streaming) (eos : s.flags.eosSeen = true)
    (whole : explodeStream short S = .ok s.win.mem.bytes) :
    ∃ t, Reaches s t ∧ t.activity = .idle ∧ t.requests = q ∧ ExplodeEnds short r0 S t := by
  obtain ⟨hflush, session, returned⟩ := finish_flushes h activity returned phase
  have hdone := step_done session.limits session.kind activity rfl eos
  exact ⟨_, .later hflush (.one hdone), rfl, h.requests, ends_of_done session (by simp) returned whole⟩

end

/-- A `finish` ends the session as far as the stream is decoded. -/
theorem ExplodeWaits.finish (h : ExplodeWaits short r0 (.finish :: q) S s) :
    ∃ t, Reaches s t ∧ t.activity = .idle ∧ t.requests = q ∧ ExplodeEnds short r0 S t := by
  have hbegin := step_beginFinish h.limits h.live h.idle h.alive h.notEnded h.requests
  have session := h.toInSession.beginFinish h.idle h.alive h.notEnded
  have returned : Returned r0 (bytesBits s.win.mem.bytes) (State.beginFinish { s with requests := q }) :=
    h.returned.same rfl rfl
  suffices hend : ∃ t, Reaches (State.beginFinish { s with requests := q }) t ∧ t.activity = .idle ∧ t.requests = q
      ∧ ExplodeEnds short r0 S t by
    obtain ⟨t, ht, hends⟩ := hend
    exact ⟨t, .later hbegin ht, hends⟩
  cases h.ahead with
  | header phase => exact finish_header session rfl returned phase
  | symbols phase eos hdr rest noSymbol => exact finish_truncated session rfl returned phase eos noSymbol
  | ended phase eos whole => exact finish_done session rfl returned phase eos (List.append_nil S ▸ whole [])

theorem ExplodeBetween.finish (h : ExplodeBetween short r0 (.finish :: q) S s) :
    ∃ t, Reaches s t ∧ t.activity = .idle ∧ t.requests = q ∧ ExplodeEnds short r0 S t := by
  obtain waits | failed := h
  · exact waits.finish
  · obtain ⟨t, hs, ht⟩ := failed.answer (.inl rfl) []
    rw [List.append_nil] at ht
    exact ⟨t, .one hs, ht.idle, ht.requests, ht.ends⟩

end

/-- A new engine waits for its header. -/
theorem explodeWaits_fresh {s : State} (hl : s.limits = .unbounded) (rest : List Request) :
    ExplodeWaits s.len2Short s.replies rest [] (s.fresh .explode none none rest) :=
  ⟨inSession_fresh s rest hl (.inr (.inl ⟨rfl, rfl, rfl⟩)), rfl, returned_fresh s rest, .header rfl⟩

/-- Settles O59: every `feed` and the `finish` keep what `explode` makes of the bytes received. -/
theorem explodeEngineIgnoresChunking : Obligations.ExplodeEngineIgnoresChunking := by
  intro s chunks hl idle hr
  have hcreate : step s = .next (s.fresh .explode none none (chunks.map .feed ++ [.finish])) := step_create idle hr rfl
  obtain ⟨u, hu, between⟩ := reaches_feeds ExplodeBetween.feed chunks (.inl (explodeWaits_fresh hl _))
  obtain ⟨t, ht, tidle, trequests, tends⟩ := between.finish
  have reaches := (Reaches.one hcreate).trans (hu.trans ht)
  rw [List.nil_append] at tends
  cases tends with
  | done records replies clean success phase =>
    refine ⟨records, t, ⟨reaches, tidle, trequests, replies⟩, ?_⟩
    rw [success]
    exact ⟨clean, rfl, phase⟩
  | failed e records replies phase err error record =>
    refine ⟨records, t, ⟨reaches, tidle, trequests, replies⟩, ?_⟩
    rw [error]
    exact ⟨phase, err, record⟩

end Sys2Proof.Machine

/-! PROOFS. O49 and O50: what the match finder answers, and when a position is decided. -/

namespace Sys2Proof.Machine

/-! ## The match finder's answer (R264 to R266) -/

/-- `best` is the longest run of equal bytes of the offsets 1 to `count`, at the nearest offset that has it. -/
structure LongestNearest (s : State) (p maxlen count : Nat) (best : Nat × Nat) : Prop where
  longest : ∀ off, 1 ≤ off → off ≤ count → s.runLength maxlen (p - off) p ≤ best.1
  run : 0 < best.1 → s.runLength maxlen (p - best.2) p = best.1
  nearest : 0 < best.1 → ∀ off, 1 ≤ off → off < best.2 → s.runLength maxlen (p - off) p < best.1

/-- The search from offset 1 with no match so far (R264, R265). -/
theorem bestMatch_longestNearest (s : State) (p maxlen count : Nat) :
    LongestNearest s p maxlen count (s.bestMatch p maxlen count 1 (0, 0)) := by
  obtain ⟨found, -, longest, nearest⟩ := bestMatch_spec s p maxlen count 1 (0, 0)
  refine ⟨fun off h1 h2 => longest off h1 (by omega), fun hpos => ?_, nearest⟩
  obtain none | ⟨-, -, run, -⟩ := found
  · simp [none] at hpos
  · exact run.symm

/-- A run is no longer than the bytes that may be compared. -/
theorem LongestNearest.length_le {s : State} {p maxlen count : Nat} {best : Nat × Nat}
    (h : LongestNearest s p maxlen count best) : best.1 ≤ maxlen := by
  obtain zero | hpos := Nat.eq_zero_or_pos best.1
  · omega
  · exact h.run hpos ▸ (runLength_spec s maxlen (p - best.2) p).1

/-- The best match is kept whole, or given up for its length or for its distance (R264, R266). -/
theorem qualified_cases (best : Nat × Nat) :
    (qualified best = best ∧ 2 ≤ best.1)
      ∨ (qualified best = (0, 0) ∧ (best.1 < 2 ∨ best.1 = 2 ∧ 256 < best.2)) := by
  unfold qualified
  split
  · exact .inl ⟨rfl, by omega⟩
  · split
    · exact .inl ⟨rfl, by omega⟩
    · exact .inr ⟨rfl, by omega⟩

/-- The finder qualifies the best of all offsets in reach. Its early answer with fewer than 2 bytes left is no exception: no
run of them qualifies. -/
theorem findMatch_eq_qualified (s : State) (reach p : Nat) :
    ∃ best, LongestNearest s p (min Config.maxLen (s.input.total - p)) (min reach p) best
      ∧ s.findMatch reach p = qualified best := by
  have search := bestMatch_longestNearest s p (min Config.maxLen (s.input.total - p)) (min reach p)
  refine ⟨_, search, ?_⟩
  simp only [State.findMatch]
  split
  · have short := search.length_le.trans_lt ‹_›
    obtain ⟨-, long⟩ | ⟨dropped, -⟩ := qualified_cases (s.bestMatch p _ (min reach p) 1 (0, 0))
    · exact absurd long (Nat.not_le.2 short)
    · exact dropped.symm
  · rfl

/-- Where the best of all offsets does not qualify, none has a longer run than 2, and none up to 256 a run of 2. -/
theorem LongestNearest.runs_of_unqualified {s : State} {p maxlen count : Nat} {best : Nat × Nat}
    (h : LongestNearest s p maxlen count best) (unqualified : best.1 < 2 ∨ best.1 = 2 ∧ 256 < best.2) {off : Nat}
    (h1 : 1 ≤ off) (h2 : off ≤ count) :
    s.runLength maxlen (p - off) p ≤ 2 ∧ (off ≤ 256 → s.runLength maxlen (p - off) p ≤ 1) := by
  have longest := h.longest off h1 h2
  obtain short | ⟨two, far⟩ := unqualified
  · omega
  · refine ⟨by omega, fun near => ?_⟩
    have := h.nearest (by omega) off h1 (by omega)
    omega

/-- Settles O50: the answer is `qualified` of the longest and nearest run, which is kept or too short or too far. -/
theorem findMatchIsLongestAndNearest : Obligations.FindMatchIsLongestAndNearest := by
  intro s reach p
  dsimp only
  obtain ⟨best, search, answer⟩ := findMatch_eq_qualified s reach p
  obtain ⟨kept, long⟩ | ⟨dropped, unqualified⟩ := qualified_cases best
  · have spec := findMatch_spec s reach p
    rw [answer, kept] at spec ⊢
    refine ⟨fun found => ?_, fun few => by omega⟩
    have hpos : 0 < best.1 := by omega
    obtain ⟨hmax, hin, hoff, hreach, hshort, hbytes⟩ := spec found
    exact ⟨search.run hpos, search.longest, search.nearest hpos, hmax, hin, hoff, hreach, hshort,
      fun j hj => (hbytes j hj).symm⟩
  · rw [answer, dropped]
    exact ⟨fun found => absurd found (by decide),
      fun _ => ⟨rfl, fun off h1 h2 => search.runs_of_unqualified unqualified h1 h2⟩⟩

/-! ## When a position is decided (R262, R263) -/

/-- Inside a `feed` whatever cannot be decided yet waits. -/
theorem step_stops {s : State} (hl : s.limits = .unbounded) (kind : s.kind = some .implode) (activity : s.activity = .feed)
    (phase : s.phase = .streaming) (can : s.canDecide = false) : step s = .next s.stopForInput := by
  rw [step_unbounded hl, engine_impl_feed kind activity]
  simp [implodeFeed, phase, can]

/-- Inside a `feed` the lookahead alone allows a decision. -/
theorem canDecide_feed {s : State} (h : Inv s) (activity : s.activity = .feed) :
    s.canDecide = true ↔ Config.maxLen ≤ s.input.total - s.ipos := by
  obtain ⟨-, running, -⟩ := h.control.feed activity
  simp only [State.canDecide, running, Bool.false_or, Bool.and_eq_true, decide_eq_true_eq]
  exact and_iff_right_of_imp fun look => Nat.lt_of_sub_pos (Nat.lt_of_lt_of_le (by decide) look)

/-- After `finish` every byte left allows one. -/
theorem canDecide_finish {s : State} (h : Inv s) (activity : s.activity = .finish) :
    s.canDecide = true ↔ s.ipos < s.input.total := by
  obtain ⟨-, ended, -⟩ := h.control.finish activity
  simp [State.canDecide, ended]

/-- The stop drops only bytes below `IPOS` (R25). -/
theorem stopForInput_keeps_lookahead {s : State} (h : Inv s) (kind : s.kind = some .implode) :
    s.stopForInput.input.base ≤ s.ipos
      ∧ ∀ a, s.ipos ≤ a → s.stopForInput.input.mem.read a = s.input.mem.read a := by
  have base : s.stopForInput.input.base ≤ s.ipos :=
    deliver_base_le (s := s.setNeedsMore true) kind (h.implode kind).base_le
  obtain ⟨-, -, -, read⟩ := Input.dropTo_spec s.input s.consumedBytes h.spaces.base_le h.spaces.input
  exact ⟨base, fun a ha => read a (base.trans ha)⟩

/-- Settles O49: the two answers of the loop's condition, `stopForInput` and `decidePosition`. -/
theorem compressorDefersItsDecisions : Obligations.CompressorDefersItsDecisions := by
  intro s ct ds h hl kind hdr
  refine ⟨fun activity phase few => ?_, fun allowed => ?_⟩
  · have can : s.canDecide = false := by
      rw [← Bool.not_eq_true, canDecide_feed h activity]
      exact Nat.not_le.2 few
    obtain ⟨base, read⟩ := stopForInput_keeps_lookahead h kind
    exact ⟨_, step_stops hl kind activity phase can, rfl, rfl, rfl, rfl, rfl, rfl, base, rfl, read⟩
  · have decides : step s = decidePosition s := by
      obtain ⟨activity, phase, look⟩ | ⟨activity, phase, left⟩ := allowed
      · exact step_decides hl kind (.inl ⟨activity, phase⟩) ((canDecide_feed h activity).2 look)
      · exact step_decides hl kind (.inr ⟨activity, phase⟩) ((canDecide_finish h activity).2 left)
    rw [decides, decidePosition, hdr]
    rfl

end Sys2Proof.Machine

/-! PROOFS. O38 and O39: the transactions that only answer. -/

namespace Sys2Proof.Machine

/-! ## A transaction that is answered at once (R296, R297, R298) -/

section
variable {s : State} {r : Request} (live : s.kind ≠ none)
include live

/-- A failed instance repeats its error (R297). -/
theorem accept_of_failed (failed : s.phase = .failed) (transaction : r = .finish ∨ ∃ chunk, r = .feed chunk) :
    accept r s = .next (s.reply { producedOutput := [], error := s.err }) := by
  obtain rfl | ⟨chunk, rfl⟩ := transaction
  · rw [accept, acceptFinish, if_neg live, if_pos failed]
  · rw [accept, acceptFeed, if_neg live, if_pos failed]

/-- After `finish` nothing is taken in (R296). -/
theorem accept_of_ended (alive : s.phase ≠ .failed) (ended : s.flags.streamEnded = true)
    (transaction : r = .finish ∨ ∃ chunk, r = .feed chunk) :
    accept r s = .next (s.reply { producedOutput := [], error := none }) := by
  obtain rfl | ⟨chunk, rfl⟩ := transaction
  · rw [accept, acceptFinish, if_neg live, if_neg alive, if_pos ended]
  · rw [accept, acceptFeed, if_neg live, if_neg alive, if_pos ended]

/-- An empty chunk is nothing to take in, before `finish` (R298) and after it (R296). -/
theorem accept_empty_chunk (alive : s.phase ≠ .failed) :
    accept (.feed []) s = .next (s.reply { producedOutput := [], error := none }) := by
  cases ended : s.flags.streamEnded with
  | false => exact accept_feed_nil live alive ended
  | true => exact accept_of_ended live alive ended (.inr ⟨[], rfl⟩)

end

/-- After an error there is nothing to hold (R313). -/
theorem fits_of_failed {t : State} (failed : t.phase = .failed) (limits : Limits) : t.fits limits = true := by
  simp [State.fits, failed]

/-- No limit refuses the empty record of a failed instance. -/
theorem limited_empty_reply_of_failed {s u : State} (failed : u.phase = .failed) (replies : u.replies = s.replies)
    (e : Option ErrorKind) :
    limited s (.next (u.reply { producedOutput := [], error := e })) = .next (u.reply { producedOutput := [], error := e }) :=
  if_pos ⟨fits_of_failed failed _, by simp [replies, fitsCapacity_zero]⟩

/-- Settles O38: the request is answered with the error held, and the limits let a failed state pass. -/
theorem failedInstanceRepeatsItsError : Obligations.FailedInstanceRepeatsItsError := by
  intro s r rest live idle failed transaction hr
  rw [step_eq_limited, idle_req idle hr, accept_of_failed (s := { s with requests := rest }) live failed transaction]
  exact limited_empty_reply_of_failed (u := { s with requests := rest }) failed rfl s.err

/-- Settles O39: the two reasons for which an instance that has not failed takes nothing in. -/
theorem refusedTransactionsChangeNothing : Obligations.RefusedTransactionsChangeNothing := by
  intro s r rest hl live idle alive nothing hr
  rw [step_unbounded hl, idle_req idle hr]
  obtain ⟨ended, transaction⟩ | rfl := nothing
  · exact accept_of_ended (s := { s with requests := rest }) live alive ended transaction
  · exact accept_empty_chunk (s := { s with requests := rest }) live alive

end Sys2Proof.Machine
